-- ==== Sys2Proof/Word.lean ====
section
/-! DEFINITION. The words of the block: the bit vectors of the widths 00_scope.md (R8, R9, R11) gives, and nothing that
computes with them. Bit 0 is the least significant bit of every value (R11). -/

namespace Sys2Proof

/-- `u8` of 00_scope.md R11: a table index, a data byte, a status code, a selector. -/
abbrev U8 := BitVec 8

/-- `u16` of 00_scope.md R11: a register, a table entry, the DATA field of a response. -/
abbrev U16 := BitVec 16

/-- A command word, 64 bits (30_encoding.md R70). -/
abbrev CommandWord := BitVec 64

/-- A response word, 32 bits (30_encoding.md R71). -/
abbrev ResponseWord := BitVec 32

end Sys2Proof
end

