-- ==== Sys2Proof/Config.lean ====
section
/-! DEFINITION. What is fixed for the block: the parameters of 00_scope.md R8 and R9, and the values the model names for the
registers whose reset value the spec leaves unspecified (10_state.md R40). No free value is needed: every value the
spec leaves unspecified is unreadable (10_state.md R36). -/

namespace Sys2Proof.Config

/-- R8: the Polynomial Table has 256 entries, indexed by a byte value. -/
abbrev tableEntries : Nat := 256

/-- R8: rounds per table entry. -/
abbrev builderRounds : Nat := 8

/-- R9: a WRITE command carries 0 to 6 data bytes. -/
abbrev maxWriteBytes : Nat := 6

/-- What POLY, INIT, FINXOR, CRC and each table entry hold after reset. DESIGN CHOICE (log entry 1, unsafe): 10_state.md
R40 leaves the value unspecified, and 93_implementation_defined.md U11 lets a model hold an arbitrary value there. -/
abbrev unspecifiedWord : U16 := 0x0000#16

/-- What MODE.BITREV and MODE.BIGEND hold after reset. DESIGN CHOICE (log entry 1, unsafe), as `unspecifiedWord`. -/
abbrev unspecifiedBit : Bool := false

end Sys2Proof.Config
end

