-- ==== Sys2Proof/Syntax.lean ====
section
/-! DEFINITION. The commands of the block, one constructor for each row of spec/opcode_table.json, with the operands of
30_encoding.md R73 to R77 and the mnemonics of R79 and R85. -/

namespace Sys2Proof

/-- A command with its operands (30_encoding.md R79). WRITE has one constructor per byte count and RDST one per selector,
as the opcode table has one row for each. -/
inductive Instr where
  /-- CFG: load a Configuration from five explicit parameters (40_configuration.md R102; operands R74). -/
  | cfg (poly init finxor : U16) (bitrev bigend : Bool)
  /-- CFGP: load the predefined Configuration of this preset number (R103; operand R75, legal values 0 to 3). -/
  | cfgp (sel : U8)
  /-- ENSURE: build the table if it is not built (41_table_generator.md R126). -/
  | ensure
  /-- CREATE: a new Digest for the loaded Configuration (42_update_engine.md R154). -/
  | create
  /-- LOADCRC: set the CRC register to any value, creating a Digest (R155; operand R77). -/
  | loadcrc (imm : U16)
  /-- RESET: set the Digest's register back to INIT (R156). It is not the hardware reset (R252). -/
  | reset
  /-- WRITE with k = 0 (R157; operands R76). -/
  | write0
  /-- WRITE with k = 1. -/
  | write1 (d0 : U8)
  /-- WRITE with k = 2. -/
  | write2 (d0 d1 : U8)
  /-- WRITE with k = 3. -/
  | write3 (d0 d1 d2 : U8)
  /-- WRITE with k = 4. -/
  | write4 (d0 d1 d2 d3 : U8)
  /-- WRITE with k = 5. -/
  | write5 (d0 d1 d2 d3 d4 : U8)
  /-- WRITE with k = 6. -/
  | write6 (d0 d1 d2 d3 d4 d5 : U8)
  /-- SUM16: the finalized value (43_finalization.md R181). -/
  | sum16
  /-- SUMB: the finalized value's two bytes in the output byte order (R182). -/
  | sumb
  /-- BLKSZ: the block size, 1 (R183). -/
  | blksz
  /-- REV16: bit reversal of the immediate (41_table_generator.md R125; operand R77). -/
  | rev16 (imm : U16)
  /-- RDTAB: read one table entry (R127; operand R75, every value legal). -/
  | rdtab (idx : U8)
  /-- RDST 0: read STATUS (44_status.md R200). -/
  | rdstStatus
  /-- RDST 1: read POLY. -/
  | rdstPoly
  /-- RDST 2: read INIT. -/
  | rdstInit
  /-- RDST 3: read FINXOR. -/
  | rdstFinxor
  /-- RDST 4: read MODE. -/
  | rdstMode
  /-- RDST 5: read CRC. -/
  | rdstCrc
  deriving DecidableEq, Repr

end Sys2Proof
end

