-- ==== Sys2Proof/WellFormed.lean ====
section
/-! DEFINITION. Which commands are legal. The only operand whose type admits a reserved value is CFGP's preset number
(30_encoding.md R75, R81); every other constructor of `Instr` is legal at every operand. -/

namespace Sys2Proof

/-- 30_encoding.md R75, R81: preset numbers 0 to 3 are legal, 4 to 255 reserved. -/
def legalPreset (sel : U8) : Bool := decide (sel.toNat < 4)

/-- No operand of the command is a reserved value (30_encoding.md R81). -/
def Instr.wf : Instr → Bool
  | .cfg _ _ _ _ _ => true
  | .cfgp sel => legalPreset sel
  | .ensure => true
  | .create => true
  | .loadcrc _ => true
  | .reset => true
  | .write0 => true
  | .write1 _ => true
  | .write2 _ _ => true
  | .write3 _ _ _ => true
  | .write4 _ _ _ _ => true
  | .write5 _ _ _ _ _ => true
  | .write6 _ _ _ _ _ _ => true
  | .sum16 => true
  | .sumb => true
  | .blksz => true
  | .rev16 _ => true
  | .rdtab _ => true
  | .rdstStatus => true
  | .rdstPoly => true
  | .rdstInit => true
  | .rdstFinxor => true
  | .rdstMode => true
  | .rdstCrc => true

end Sys2Proof
end

