-- ==== Sys2Proof/Decode.lean ====
section
/-! DEFINITION. Command words: their fields (30_encoding.md R70), the total decoder (R84), the opcode map (R79), and after
it the encoder (R72 to R77). Decoding reads no state (R84): a word's verdict depends on the word alone. -/

namespace Sys2Proof

/-! ### Fields of a command word (R70) -/

/-- OPC, bits 63:56. -/
def opcodeField (w : CommandWord) : U8 := w.extractLsb' 56 8

/-- F, bits 55:48. -/
def flagsField (w : CommandWord) : U8 := w.extractLsb' 48 8

/-- P, bits 47:0. -/
def payloadField (w : CommandWord) : BitVec 48 := w.extractLsb' 0 48

/-- A, bits 47:32. -/
def fieldA (w : CommandWord) : U16 := w.extractLsb' 32 16

/-- B, bits 31:16. -/
def fieldB (w : CommandWord) : U16 := w.extractLsb' 16 16

/-- C, bits 15:0. -/
def fieldC (w : CommandWord) : U16 := w.extractLsb' 0 16

/-- Data byte Dj, bits 47-8j : 40-8j, for j = 0 to 5. -/
def dataByte (w : CommandWord) (j : Nat) : U8 := w.extractLsb' (40 - 8 * j) 8

/-- The unused bytes Dk .. D5 of a WRITE with count k, bits 47-8k : 0, are all 0 (R76, R84). -/
def unusedBytesZero (w : CommandWord) (k : Nat) : Bool := w.extractLsb' 0 (48 - 8 * k) == 0

/-! ### The decoder (R84) -/

/-- Why a word is no command: an unassigned opcode (R82), or a reserved bit or reserved operand value (R80, R81). -/
inductive Reject where
  | illegal
  | reserved
  deriving DecidableEq, Repr

/-- The command if its reserved bits and operand values are as they must be; else it is reserved (R80, R81). -/
def unlessReserved (legal : Bool) (i : Instr) : Except Reject Instr :=
  if legal then .ok i else .error .reserved

/-- Format N (R72, R73): F and P must be 0. -/
def decodeN (w : CommandWord) (i : Instr) : Except Reject Instr :=
  unlessReserved (flagsField w == 0 && payloadField w == 0) i

/-- Format IMM (R72, R77): F, A and B must be 0; the immediate is C. -/
def decodeImm (w : CommandWord) (i : U16 → Instr) : Except Reject Instr :=
  unlessReserved (flagsField w == 0 && fieldA w == 0 && fieldB w == 0) (i (fieldC w))

/-- Format CFG (R72, R74): F[7:2] must be 0. -/
def decodeCfg (w : CommandWord) : Except Reject Instr :=
  unlessReserved ((flagsField w).extractLsb' 2 6 == 0)
    (.cfg (fieldA w) (fieldB w) (fieldC w) ((flagsField w).getLsbD 0) ((flagsField w).getLsbD 1))

/-- Format SEL for CFGP (R75, R81): F is a legal preset number and P is 0. -/
def decodeCfgp (w : CommandWord) : Except Reject Instr :=
  unlessReserved (legalPreset (flagsField w) && payloadField w == 0) (.cfgp (flagsField w))

/-- Format W (R76, R81): F is the byte count, 0 to 6, and the unused bytes must be 0; with F ≥ 7 the payload is not
examined. -/
def decodeWrite (w : CommandWord) : Except Reject Instr :=
  let d := dataByte w
  match (flagsField w).toNat with
  | 0 => unlessReserved (unusedBytesZero w 0) .write0
  | 1 => unlessReserved (unusedBytesZero w 1) (.write1 (d 0))
  | 2 => unlessReserved (unusedBytesZero w 2) (.write2 (d 0) (d 1))
  | 3 => unlessReserved (unusedBytesZero w 3) (.write3 (d 0) (d 1) (d 2))
  | 4 => unlessReserved (unusedBytesZero w 4) (.write4 (d 0) (d 1) (d 2) (d 3))
  | 5 => unlessReserved (unusedBytesZero w 5) (.write5 (d 0) (d 1) (d 2) (d 3) (d 4))
  | 6 => .ok (.write6 (d 0) (d 1) (d 2) (d 3) (d 4) (d 5))
  | _ => .error .reserved

/-- Format SEL for RDTAB (R75): F is the index, P must be 0. -/
def decodeRdtab (w : CommandWord) : Except Reject Instr :=
  unlessReserved (payloadField w == 0) (.rdtab (flagsField w))

/-- Format SEL for RDST (R75, R81): F is the selector, 0 to 5, and P must be 0. -/
def decodeRdst (w : CommandWord) : Except Reject Instr :=
  match (flagsField w).toNat with
  | 0 => unlessReserved (payloadField w == 0) .rdstStatus
  | 1 => unlessReserved (payloadField w == 0) .rdstPoly
  | 2 => unlessReserved (payloadField w == 0) .rdstInit
  | 3 => unlessReserved (payloadField w == 0) .rdstFinxor
  | 4 => unlessReserved (payloadField w == 0) .rdstMode
  | 5 => unlessReserved (payloadField w == 0) .rdstCrc
  | _ => .error .reserved

/-- The decoder of 30_encoding.md R84, total on every 64-bit word: a command with its operands, or illegal, or reserved. -/
def decode (w : CommandWord) : Except Reject Instr :=
  match (opcodeField w).toNat with
  | 0x01 => decodeCfg w
  | 0x02 => decodeCfgp w
  | 0x03 => decodeN w .ensure
  | 0x04 => decodeN w .create
  | 0x05 => decodeImm w .loadcrc
  | 0x06 => decodeN w .reset
  | 0x07 => decodeWrite w
  | 0x08 => decodeN w .sum16
  | 0x09 => decodeN w .sumb
  | 0x0A => decodeN w .blksz
  | 0x0B => decodeImm w .rev16
  | 0x0C => decodeRdtab w
  | 0x0D => decodeRdst w
  | _ => .error .illegal

/-! ### The encoder (R72 to R77, R79) -/

/-- OPC, F and P put together (R70). -/
def packWord (opc f : U8) (p : BitVec 48) : CommandWord := opc ++ f ++ p

/-- P from its three 16-bit fields A, B, C (R70). -/
def packABC (a b c : U16) : BitVec 48 := a ++ b ++ c

/-- P from its six data bytes D0 .. D5, D0 in bits 47:40 (R70). -/
def packBytes (d0 d1 d2 d3 d4 d5 : U8) : BitVec 48 := d0 ++ d1 ++ d2 ++ d3 ++ d4 ++ d5

/-- F of format CFG: F[0] = BITREV, F[1] = BIGEND, F[7:2] = 0 (R72). -/
def packModeFlags (bitrev bigend : Bool) : U8 := 0#6 ++ BitVec.ofBool bigend ++ BitVec.ofBool bitrev

/-- The command word of a command, reserved bits 0 (R72, R79, R85). -/
def encode : Instr → CommandWord
  | .cfg poly init finxor bitrev bigend => packWord 0x01#8 (packModeFlags bitrev bigend) (packABC poly init finxor)
  | .cfgp sel => packWord 0x02#8 sel 0#48
  | .ensure => packWord 0x03#8 0#8 0#48
  | .create => packWord 0x04#8 0#8 0#48
  | .loadcrc imm => packWord 0x05#8 0#8 (packABC 0#16 0#16 imm)
  | .reset => packWord 0x06#8 0#8 0#48
  | .write0 => packWord 0x07#8 0#8 (packBytes 0#8 0#8 0#8 0#8 0#8 0#8)
  | .write1 d0 => packWord 0x07#8 1#8 (packBytes d0 0#8 0#8 0#8 0#8 0#8)
  | .write2 d0 d1 => packWord 0x07#8 2#8 (packBytes d0 d1 0#8 0#8 0#8 0#8)
  | .write3 d0 d1 d2 => packWord 0x07#8 3#8 (packBytes d0 d1 d2 0#8 0#8 0#8)
  | .write4 d0 d1 d2 d3 => packWord 0x07#8 4#8 (packBytes d0 d1 d2 d3 0#8 0#8)
  | .write5 d0 d1 d2 d3 d4 => packWord 0x07#8 5#8 (packBytes d0 d1 d2 d3 d4 0#8)
  | .write6 d0 d1 d2 d3 d4 d5 => packWord 0x07#8 6#8 (packBytes d0 d1 d2 d3 d4 d5)
  | .sum16 => packWord 0x08#8 0#8 0#48
  | .sumb => packWord 0x09#8 0#8 0#48
  | .blksz => packWord 0x0A#8 0#8 0#48
  | .rev16 imm => packWord 0x0B#8 0#8 (packABC 0#16 0#16 imm)
  | .rdtab idx => packWord 0x0C#8 idx 0#48
  | .rdstStatus => packWord 0x0D#8 0#8 0#48
  | .rdstPoly => packWord 0x0D#8 1#8 0#48
  | .rdstInit => packWord 0x0D#8 2#8 0#48
  | .rdstFinxor => packWord 0x0D#8 3#8 0#48
  | .rdstMode => packWord 0x0D#8 4#8 0#48
  | .rdstCrc => packWord 0x0D#8 5#8 0#48

/-! ### The opcode map's match and mask columns (R79) -/

/-- A row of the match and mask table of R79: a word `w` is the command when `w AND mask = pattern`. -/
structure OpcodeRow where
  pattern : CommandWord
  mask : CommandWord
  deriving DecidableEq, Repr

/-- The row of R79 a command belongs to. -/
def opcodeRow : Instr → OpcodeRow
  | .cfg _ _ _ _ _ => ⟨0x0100000000000000#64, 0xFFFC000000000000#64⟩
  | .cfgp _ => ⟨0x0200000000000000#64, 0xFFFCFFFFFFFFFFFF#64⟩
  | .ensure => ⟨0x0300000000000000#64, 0xFFFFFFFFFFFFFFFF#64⟩
  | .create => ⟨0x0400000000000000#64, 0xFFFFFFFFFFFFFFFF#64⟩
  | .loadcrc _ => ⟨0x0500000000000000#64, 0xFFFFFFFFFFFF0000#64⟩
  | .reset => ⟨0x0600000000000000#64, 0xFFFFFFFFFFFFFFFF#64⟩
  | .write0 => ⟨0x0700000000000000#64, 0xFFFFFFFFFFFFFFFF#64⟩
  | .write1 _ => ⟨0x0701000000000000#64, 0xFFFF00FFFFFFFFFF#64⟩
  | .write2 _ _ => ⟨0x0702000000000000#64, 0xFFFF0000FFFFFFFF#64⟩
  | .write3 _ _ _ => ⟨0x0703000000000000#64, 0xFFFF000000FFFFFF#64⟩
  | .write4 _ _ _ _ => ⟨0x0704000000000000#64, 0xFFFF00000000FFFF#64⟩
  | .write5 _ _ _ _ _ => ⟨0x0705000000000000#64, 0xFFFF0000000000FF#64⟩
  | .write6 _ _ _ _ _ _ => ⟨0x0706000000000000#64, 0xFFFF000000000000#64⟩
  | .sum16 => ⟨0x0800000000000000#64, 0xFFFFFFFFFFFFFFFF#64⟩
  | .sumb => ⟨0x0900000000000000#64, 0xFFFFFFFFFFFFFFFF#64⟩
  | .blksz => ⟨0x0A00000000000000#64, 0xFFFFFFFFFFFFFFFF#64⟩
  | .rev16 _ => ⟨0x0B00000000000000#64, 0xFFFFFFFFFFFF0000#64⟩
  | .rdtab _ => ⟨0x0C00000000000000#64, 0xFF00FFFFFFFFFFFF#64⟩
  | .rdstStatus => ⟨0x0D00000000000000#64, 0xFFFFFFFFFFFFFFFF#64⟩
  | .rdstPoly => ⟨0x0D01000000000000#64, 0xFFFFFFFFFFFFFFFF#64⟩
  | .rdstInit => ⟨0x0D02000000000000#64, 0xFFFFFFFFFFFFFFFF#64⟩
  | .rdstFinxor => ⟨0x0D03000000000000#64, 0xFFFFFFFFFFFFFFFF#64⟩
  | .rdstMode => ⟨0x0D04000000000000#64, 0xFFFFFFFFFFFFFFFF#64⟩
  | .rdstCrc => ⟨0x0D05000000000000#64, 0xFFFFFFFFFFFFFFFF#64⟩

/-- One command of each row, to list the rows by. -/
def rowSamples : List Instr :=
  [.cfg 0 0 0 false false, .cfgp 0, .ensure, .create, .loadcrc 0, .reset] ++
    [.write0, .write1 0, .write2 0 0, .write3 0 0 0, .write4 0 0 0 0, .write5 0 0 0 0 0, .write6 0 0 0 0 0 0] ++
    [.sum16, .sumb, .blksz, .rev16 0, .rdtab 0] ++
    [.rdstStatus, .rdstPoly, .rdstInit, .rdstFinxor, .rdstMode, .rdstCrc]

/-- The 24 rows of R79's match and mask table. -/
def opcodeRows : List OpcodeRow := rowSamples.map opcodeRow

/-- The word `w` is the command of this row (R79). -/
def OpcodeRow.admits (r : OpcodeRow) (w : CommandWord) : Bool := w &&& r.mask == r.pattern

/-! ### The opcode table's numbering -/

/-- A word given by its lowest `nbits` bits, bit 0 the least significant (R11); the bits above are 0. A command is one
64-bit word delivered whole (20_memory.md R55), so there is no byte order to lay out. -/
def tableWord (nbits w : Nat) : CommandWord := BitVec.ofNat 64 (w % 2 ^ nbits)

/-- The command the decoder reads from such a word. -/
def decodeTableWord (nbits w : Nat) : Option Instr :=
  match decode (tableWord nbits w) with
  | .ok i => some i
  | .error _ => none

end Sys2Proof
end

