-- ==== Sys2Proof/Machine/State.lean ====
section
/-! DEFINITION. The state of the block (10_state.md R20), the value of each piece of it after reset (R40), and the reasons
for which a step could stop, of which the block has none (60_exceptions.md R222, 70_reset_and_hazards.md R267). -/

namespace Sys2Proof.Machine

/-- One item of the ordered sequence of inputs the block receives (00_scope.md R10, 20_memory.md R62). -/
inductive PortInput where
  /-- A command word delivered on the command port. -/
  | command (w : CommandWord)
  /-- The hardware reset event (70_reset_and_hazards.md R250). A command in execution when it occurs is abandoned: it is
  delivered and has no effect and no response. -/
  | hardwareReset (abandoned : Option CommandWord)
  deriving DecidableEq, Repr

/-- The state of the block: the twelve pieces of 10_state.md R20, and the two port sequences of 00_scope.md R10 (the
model's own fields, log entry 3). -/
structure State where
  /-- POLY, the generator polynomial in natural form (R21). -/
  poly : U16
  /-- INIT, the initial value (R22). -/
  init : U16
  /-- FINXOR, the final XOR value (R23). -/
  finxor : U16
  /-- MODE.BITREV: true is the bit-reversed convention, false the normal one (R24). -/
  bitrev : Bool
  /-- MODE.BIGEND: true emits the most significant byte first (R24). -/
  bigend : Bool
  /-- CFG_VALID: a Configuration is loaded (R25). -/
  cfgValid : Bool
  /-- TABLE[0..255], the Polynomial Table (R26): a vector of whole u16 entries (20_memory.md R51, log entry 2). -/
  table : Vector U16 Config.tableEntries
  /-- TABLE_VALID: the table has been built for the loaded Configuration (R27). -/
  tableValid : Bool
  /-- CRC, the Digest's register (R29). -/
  crc : U16
  /-- DIGEST_VALID: a Digest exists for the loaded Configuration (R30). -/
  digestValid : Bool
  /-- ERR, sticky: some command since reset has failed (R32). -/
  err : Bool
  /-- ERRCODE, the status code of the first failed command since reset (R33). -/
  errcode : U8
  /-- The inputs still to come, the next one first. -/
  inputs : List PortInput
  /-- The responses given so far, the oldest first. -/
  responses : List ResponseWord
  deriving DecidableEq, Repr

/-- The state right after reset (10_state.md R40, 70_reset_and_hazards.md R250): the four flags 0 and ERRCODE 0x00, as the
spec states; the registers and the table, whose value the spec leaves unspecified, at the values Config names (DESIGN
CHOICE, log entry 1); no input and no response yet (log entry 3). -/
def State.reset : State where
  poly := Config.unspecifiedWord
  init := Config.unspecifiedWord
  finxor := Config.unspecifiedWord
  bitrev := Config.unspecifiedBit
  bigend := Config.unspecifiedBit
  cfgValid := false
  table := Vector.replicate Config.tableEntries Config.unspecifiedWord
  tableValid := false
  crc := Config.unspecifiedWord
  digestValid := false
  err := false
  errcode := 0x00#8
  inputs := []
  responses := []

/-- Reasons to stop with a fault: none. A failing command is a status code and a next state (60_exceptions.md R222, R225),
every table index is valid (20_memory.md R52) and every command terminates (70_reset_and_hazards.md R267), so nothing
raises a fault. -/
inductive Fault where
  deriving DecidableEq, Repr

/-- Reasons to refuse. -/
inductive Refusal where
  /-- The interface's fixed name for a command without a meaning, raised by an arm of exec that rejects its command by
  name; safe. No arm does: every command has its meaning. -/
  | notModelled (mnemonic : String)
  deriving DecidableEq, Repr

/-- What a command or a step answers. -/
abbrev Answer := Host.Outcome State Fault Refusal

end Sys2Proof.Machine
end

