-- ==== Sys2Proof/Machine/Ops.lean ====
section
/-! DEFINITION. The operations the commands share: reading and writing a table entry (00_scope.md R13), giving a response
(30_encoding.md R71), failing (60_exceptions.md R222), the checks a command makes first (R221, R223), the next input of
the port and the hardware reset (70_reset_and_hazards.md R250). -/

namespace Sys2Proof.Machine

/-! ### The table index space (20_memory.md R50 to R52) -/

/-- TabRead(i) (00_scope.md R13): the whole 16-bit entry. Every u8 is a valid index (20_memory.md R52). -/
def tabRead (t : Vector U16 Config.tableEntries) (i : U8) : U16 := t[i.toNat]'i.isLt

/-- TabWrite(i, v) (00_scope.md R13). -/
def tabWrite (i : U8) (v : U16) (t : Vector U16 Config.tableEntries) : Vector U16 Config.tableEntries :=
  t.set i.toNat v i.isLt

/-! ### Responses (30_encoding.md R71) -/

/-- The response word: ST in bits 31:24, 0 in bits 23:16, DATA in bits 15:0 (R71). -/
def responseWord (st : U8) (data : U16) : ResponseWord := st ++ 0x00#8 ++ data

/-- ST of a response word (R71). -/
def responseStatus (r : ResponseWord) : U8 := r.extractLsb' 24 8

/-- DATA of a response word (R71). -/
def responseData (r : ResponseWord) : U16 := r.extractLsb' 0 16

/-- `respond(st, data)` (00_scope.md R14): the response of the current command, after all earlier ones (20_memory.md
R62). -/
def respond (st : U8) (data : U16) (s : State) : State :=
  { s with responses := s.responses ++ [responseWord st data] }

/-- `respond(0x00, data)`: the response of a command that succeeds. -/
def respondOk (data : U16) (s : State) : State := respond 0x00#8 data s

/-! ### Failing: the block's one exception entry (60_exceptions.md R220, R222)

There is no return from it and no handler (R225, R226): the block takes the next command as usual, and only the hardware
reset clears ERR and ERRCODE. -/

/-- The errors of R220. -/
inductive ErrorCode where
  | illegal
  | rsvd
  | noCfg
  | noTab
  | noDig
  deriving DecidableEq, Repr

/-- The status codes of R220. -/
def errorStatus : ErrorCode → U8
  | .illegal => 0x01#8
  | .rsvd => 0x02#8
  | .noCfg => 0x03#8
  | .noTab => 0x04#8
  | .noDig => 0x05#8

/-- The error a word that is no command fails with (30_encoding.md R80 to R82). -/
def rejectError : Reject → ErrorCode
  | .illegal => .illegal
  | .reserved => .rsvd

/-- `Fail(code)` (R222): ERRCODE takes the code if ERR was 0, ERR becomes 1, the response is the code with DATA 0; no other
state changes. -/
def fail (e : ErrorCode) (s : State) : State :=
  respond (errorStatus e) 0x0000#16
    { s with errcode := if s.err then s.errcode else errorStatus e, err := true }

/-! ### The checks that precede a command's effect (60_exceptions.md R221, R223) -/

/-- What a command needs before it may run: a row of R221's table. -/
inductive Need where
  /-- CFG, CFGP, REV16, BLKSZ, RDST 0. -/
  | nothing
  /-- ENSURE, CREATE, LOADCRC, RDST 1 to 4: CFG_VALID. -/
  | config
  /-- RDTAB: CFG_VALID and TABLE_VALID. -/
  | table
  /-- RESET, WRITE, SUM16, SUMB, RDST 5: CFG_VALID and DIGEST_VALID. -/
  | digest
  deriving DecidableEq, Repr

/-- The first check that fails, in the order E_NOCFG, E_NOTAB, E_NODIG (R223). -/
def missing (n : Need) (s : State) : Option ErrorCode :=
  match n with
  | .nothing => none
  | .config => if s.cfgValid then none else some .noCfg
  | .table => if s.cfgValid then (if s.tableValid then none else some .noTab) else some .noCfg
  | .digest => if s.cfgValid then (if s.digestValid then none else some .noDig) else some .noCfg

/-- A command: its checks, then its effect, or the failure of the first check that fails (R222, R223). -/
def perform (n : Need) (effect : State → State) (s : State) : Answer :=
  match missing n s with
  | none => .next (effect s)
  | some e => .next (fail e s)

/-! ### Inputs and the hardware reset -/

/-- Take the next input off the port sequence (20_memory.md R62), if there is one. -/
def nextInput (s : State) : Option (PortInput × State) :=
  match s.inputs with
  | [] => none
  | x :: rest => some (x, { s with inputs := rest })

/-- The hardware reset (70_reset_and_hazards.md R250): every piece of state takes its reset value, no response is given;
the inputs still to come and the responses already given are the host's, and stand. -/
def hardwareReset (s : State) : State :=
  { State.reset with inputs := s.inputs, responses := s.responses }

/-- Deliver command words on the port, after the inputs already there (20_memory.md R62). -/
def deliver (ws : List CommandWord) (s : State) : State :=
  { s with inputs := s.inputs ++ ws.map PortInput.command }

end Sys2Proof.Machine
end

