-- ==== Sys2Proof/Machine/Flags.lean ====
section
/-! DEFINITION. The flags and the read views made of them: STATUS (10_state.md R34), MODE (R24), and what each flag update
of a command sets and clears (R25, R27, R30, R42). -/

namespace Sys2Proof.Machine

/-- STATUS = {ERRCODE, 0b0000, ERR, DIGEST_VALID, TABLE_VALID, CFG_VALID} (10_state.md R34). -/
def statusView (s : State) : U16 :=
  s.errcode ++ 0#4 ++ BitVec.ofBool s.err ++ BitVec.ofBool s.digestValid ++ BitVec.ofBool s.tableValid ++
    BitVec.ofBool s.cfgValid

/-- MODE as a 16-bit word: {0b00000000000000, BIGEND, BITREV} (10_state.md R24, 44_status.md R200). -/
def modeView (s : State) : U16 := 0#14 ++ BitVec.ofBool s.bigend ++ BitVec.ofBool s.bitrev

/-- The flags of a new Configuration: CFG_VALID <- 1, TABLE_VALID <- 0, DIGEST_VALID <- 0 (40_configuration.md R104). -/
def startConfiguration (s : State) : State := { s with cfgValid := true, tableValid := false, digestValid := false }

/-- TABLE_VALID <- 1, by the table build only (10_state.md R27). -/
def markTableBuilt (s : State) : State := { s with tableValid := true }

/-- DIGEST_VALID <- 1, by CREATE and LOADCRC only (10_state.md R30). -/
def markDigest (s : State) : State := { s with digestValid := true }

end Sys2Proof.Machine
end

