-- ==== Sys2Proof/Machine/Operands.lean ====
section
/-! DEFINITION. The operand forms: bytes of a 16-bit value (00_scope.md R11, R12; 20_memory.md R57), zero extension, the
five attributes of a Configuration and the presets (40_configuration.md R100, R101), and a WRITE's data bytes
(30_encoding.md R76). No operand is signed, scaled or extended with anything but zeros (30_encoding.md R78). -/

namespace Sys2Proof.Machine

/-- `low_byte(r)`, bits 7:0 (00_scope.md R12). -/
def lowByte (r : U16) : U8 := r.extractLsb' 0 8

/-- `high_byte(r)`, bits 15:8 (00_scope.md R12). -/
def highByte (r : U16) : U8 := r.extractLsb' 8 8

/-- `{hi, lo}` (00_scope.md R12). -/
def joinBytes (hi lo : U8) : U16 := hi ++ lo

/-- `zext_16` of a byte (00_scope.md R12). -/
def zext16 (b : U8) : U16 := b.setWidth 16

/-- `zext_16` of one bit (00_scope.md R12). -/
def zextBit (b : Bool) : U16 := (BitVec.ofBool b).setWidth 16

/-- The five attributes of a Configuration (40_configuration.md R100). -/
structure Attributes where
  poly : U16
  bitrev : Bool
  init : U16
  finxor : U16
  bigend : Bool
  deriving DecidableEq, Repr

/-- The predefined Configurations by preset number (40_configuration.md R101): 0 X25 (alias PPP), 1 MODBUS, 2 XMODEM,
3 KERMIT; 4 to 255 are reserved (30_encoding.md R81). The tuples are the spec's own general knowledge
(93_implementation_defined.md G1; log entry 5). -/
def preset (sel : U8) : Option Attributes :=
  match sel.toNat with
  | 0 => some { poly := 0x1021#16, bitrev := true, init := 0xFFFF#16, finxor := 0xFFFF#16, bigend := false }
  | 1 => some { poly := 0x8005#16, bitrev := true, init := 0xFFFF#16, finxor := 0x0000#16, bigend := false }
  | 2 => some { poly := 0x1021#16, bitrev := false, init := 0x0000#16, finxor := 0x0000#16, bigend := true }
  | 3 => some { poly := 0x1021#16, bitrev := true, init := 0x0000#16, finxor := 0x0000#16, bigend := false }
  | _ => none

/-- The count of data bytes of a WRITE as the response's DATA, `zext_16(k)` (42_update_engine.md R157). -/
def byteCount (bytes : List U8) : U16 := BitVec.ofNat 16 bytes.length

/-- The data bytes a command carries, first byte first (30_encoding.md R76): those of a WRITE, and none of any other
command. -/
def dataBytes : Instr → List U8
  | .write0 => []
  | .write1 d0 => [d0]
  | .write2 d0 d1 => [d0, d1]
  | .write3 d0 d1 d2 => [d0, d1, d2]
  | .write4 d0 d1 d2 d3 => [d0, d1, d2, d3]
  | .write5 d0 d1 d2 d3 d4 => [d0, d1, d2, d3, d4]
  | .write6 d0 d1 d2 d3 d4 d5 => [d0, d1, d2, d3, d4, d5]
  | .cfg _ _ _ _ _ => []
  | .cfgp _ => []
  | .ensure => []
  | .create => []
  | .loadcrc _ => []
  | .reset => []
  | .sum16 => []
  | .sumb => []
  | .blksz => []
  | .rev16 _ => []
  | .rdtab _ => []
  | .rdstStatus => []
  | .rdstPoly => []
  | .rdstInit => []
  | .rdstFinxor => []
  | .rdstMode => []
  | .rdstCrc => []

end Sys2Proof.Machine
end

