-- ==== Sys2Proof/Machine/Configuration.lean ====
section
/-! DEFINITION. The configuration commands CFG and CFGP (40_configuration.md). -/

namespace Sys2Proof.Machine

/-- `NewConfiguration` (40_configuration.md R104): the five attributes are loaded, the old table and the old Digest hold no
value any more. TABLE and CRC keep their old contents, which no command can read (93_implementation_defined.md U12, log
entry 7). ERR and ERRCODE are unchanged. -/
def newConfiguration (a : Attributes) (s : State) : State :=
  startConfiguration
    { s with poly := a.poly, init := a.init, finxor := a.finxor, bitrev := a.bitrev, bigend := a.bigend }

/-- CFG (R102): it needs nothing, and every value of its five operands is legal. -/
def execCfg (poly init finxor : U16) (bitrev bigend : Bool) (s : State) : Answer :=
  perform .nothing (fun s => respondOk 0x0000#16 (newConfiguration ⟨poly, bitrev, init, finxor, bigend⟩ s)) s

/-- CFGP (R103): a legal preset number loads its tuple; a reserved one fails E_RSVD (30_encoding.md R81). -/
def execCfgp (sel : U8) (s : State) : Answer :=
  match preset sel with
  | some a => perform .nothing (fun s => respondOk 0x0000#16 (newConfiguration a s)) s
  | none => .next (fail .rsvd s)

end Sys2Proof.Machine
end

