-- ==== Sys2Proof/Machine/TableGenerator.lean ====
section
/-! DEFINITION. The polynomial table generator: bit reversal, the two entry builders, the table build, and the commands
REV16, ENSURE and RDTAB (41_table_generator.md). -/

namespace Sys2Proof.Machine

/-- `rev16` (41_table_generator.md R120): bit i of the argument is bit 15 - i of the result. -/
def rev16 (v : U16) : U16 := v.reverse

/-- One round of the bit-reversed builder (R121): shift right, and XOR the bit-reversed polynomial if the bit shifted out
was 1. -/
def roundR (rp : U16) (c : U16) : U16 := if c.getLsbD 0 then (c >>> 1) ^^^ rp else c >>> 1

/-- `BuildEntryR` (R121): the byte starts in the LOW byte (92_eei_decisions.md D30). -/
def buildEntryR (rp : U16) (i : U8) : U16 := (roundR rp)^[Config.builderRounds] (zext16 i)

/-- One round of the normal builder (R122): shift left, dropping bit 15, and XOR the polynomial if that bit was 1. -/
def roundN (poly : U16) (c : U16) : U16 := if c.getLsbD 15 then (c <<< 1) ^^^ poly else c <<< 1

/-- `BuildEntryN` (R122): the byte starts in the high byte. -/
def buildEntryN (poly : U16) (i : U8) : U16 := (roundN poly)^[Config.builderRounds] (joinBytes i 0x00#8)

/-- `BuildEntry` (R123): POLY holds natural form and is reversed for the bit-reversed builder (90_conflicts.md C2). -/
def buildEntry (bitrev : Bool) (poly : U16) (i : U8) : U16 :=
  if bitrev then buildEntryR (rev16 poly) i else buildEntryN poly i

/-- All 256 entries of the table of a polynomial and bit order (R124). -/
def buildTable (bitrev : Bool) (poly : U16) : Vector U16 Config.tableEntries :=
  ⟨((List.range Config.tableEntries).map fun i => buildEntry bitrev poly (BitVec.ofNat 8 i)).toArray, by simp⟩

/-- `TableBuild()` (R124): all 256 entries in one atomic step (20_memory.md R60), and TABLE_VALID <- 1. -/
def tableBuild (s : State) : State := markTableBuilt { s with table := buildTable s.bitrev s.poly }

/-- `EnsureTable()` (R124), the state after it: the table is built if TABLE_VALID is 0, and else nothing changes. -/
def ensureTable (s : State) : State := if s.tableValid then s else tableBuild s

/-- What `EnsureTable()` returns (R124), computed from TABLE_VALID before the command (10_state.md R37): 1 if it builds. -/
def ensureBuilds (s : State) : Bool := !s.tableValid

/-- REV16 (R125): it needs nothing and writes no state. -/
def execRev16 (imm : U16) (s : State) : Answer :=
  perform .nothing (fun s => respondOk (rev16 imm) s) s

/-- ENSURE (R126): the table is built if need be; the result is the built flag. -/
def execEnsure (s : State) : Answer :=
  perform .config (fun s => respondOk (zextBit (ensureBuilds s)) (ensureTable s)) s

/-- RDTAB (R127): it reads one entry and does not build the table. -/
def execRdtab (idx : U8) (s : State) : Answer :=
  perform .table (fun s => respondOk (tabRead s.table idx) s) s

end Sys2Proof.Machine
end

