-- ==== Sys2Proof/Machine/UpdateEngine.lean ====
section
/-! DEFINITION. The register update engine: the fold, and the commands CREATE, LOADCRC, RESET and WRITE
(42_update_engine.md). -/

namespace Sys2Proof.Machine

/-- `FoldR` (42_update_engine.md R150): register = table[low_byte(register) XOR byte] XOR (register >> 8). -/
def foldR (t : Vector U16 Config.tableEntries) (crc : U16) (b : U8) : U16 :=
  tabRead t (lowByte crc ^^^ b) ^^^ (crc >>> 8)

/-- `FoldN` (R151): register = table[high_byte(register) XOR byte] XOR (register << 8), truncated to 16 bits. -/
def foldN (t : Vector U16 Config.tableEntries) (crc : U16) (b : U8) : U16 :=
  tabRead t (highByte crc ^^^ b) ^^^ (crc <<< 8)

/-- `Fold` (R152): the bit order selects the fold. -/
def foldByte (t : Vector U16 Config.tableEntries) (bitrev : Bool) (crc : U16) (b : U8) : U16 :=
  if bitrev then foldR t crc b else foldN t crc b

/-- `FoldSeq` (R152, 00_scope.md R15): the bytes are folded first byte first. -/
def foldSeq (t : Vector U16 Config.tableEntries) (bitrev : Bool) (crc : U16) (bytes : List U8) : U16 :=
  bytes.foldl (foldByte t bitrev) crc

/-- What CREATE and LOADCRC do (R154, R155): the table is built if need be, the register takes the value, and a Digest
exists. -/
def startDigest (value : U16) (s : State) : State := markDigest { ensureTable s with crc := value }

/-- CREATE (R154): a new Digest whose register is INIT. -/
def execCreate (s : State) : Answer :=
  perform .config (fun s => respondOk 0x0000#16 (startDigest s.init s)) s

/-- LOADCRC (R155): a new Digest whose register is the immediate. -/
def execLoadcrc (imm : U16) (s : State) : Answer :=
  perform .config (fun s => respondOk 0x0000#16 (startDigest imm s)) s

/-- RESET (R156): the Digest's register becomes INIT again; everything else stays (70_reset_and_hazards.md R252). -/
def execReset (s : State) : Answer :=
  perform .digest (fun s => respondOk 0x0000#16 { s with crc := s.init }) s

/-- WRITE (R157), for any count: all the bytes are folded in order, and the result is their count. -/
def writeBytes (bytes : List U8) (s : State) : Answer :=
  perform .digest
    (fun s => respondOk (byteCount bytes) { s with crc := foldSeq s.table s.bitrev s.crc bytes }) s

/-- WRITE with k = 0 (R157): legal, folds nothing. -/
def execWrite0 (s : State) : Answer := writeBytes [] s

/-- WRITE with k = 1 (R157). -/
def execWrite1 (d0 : U8) (s : State) : Answer := writeBytes [d0] s

/-- WRITE with k = 2 (R157). -/
def execWrite2 (d0 d1 : U8) (s : State) : Answer := writeBytes [d0, d1] s

/-- WRITE with k = 3 (R157). -/
def execWrite3 (d0 d1 d2 : U8) (s : State) : Answer := writeBytes [d0, d1, d2] s

/-- WRITE with k = 4 (R157). -/
def execWrite4 (d0 d1 d2 d3 : U8) (s : State) : Answer := writeBytes [d0, d1, d2, d3] s

/-- WRITE with k = 5 (R157). -/
def execWrite5 (d0 d1 d2 d3 d4 : U8) (s : State) : Answer := writeBytes [d0, d1, d2, d3, d4] s

/-- WRITE with k = 6 (R157). -/
def execWrite6 (d0 d1 d2 d3 d4 d5 : U8) (s : State) : Answer := writeBytes [d0, d1, d2, d3, d4, d5] s

end Sys2Proof.Machine
end

