-- ==== Sys2Proof/Machine/Finalization.lean ====
section
/-! DEFINITION. The finalization unit: the final XOR, the byte-swap mux, the commands SUM16, SUMB and BLKSZ, and the
one-shot checksum as a function (43_finalization.md). -/

namespace Sys2Proof.Machine

/-- `FinalValue` (43_finalization.md R180). -/
def finalValue (crc finxor : U16) : U16 := crc ^^^ finxor

/-- `Serialize` (R180): the two bytes of the serialized checksum, first byte first. -/
def serialize (v : U16) (bigend : Bool) : List U8 :=
  if bigend then [highByte v, lowByte v] else [lowByte v, highByte v]

/-- `SwapMux` (R180): the two bytes of `Serialize` in one u16, the first byte in bits 15:8. -/
def swapMux (v : U16) (bigend : Bool) : U16 := if bigend then v else joinBytes (lowByte v) (highByte v)

/-- The block size (R183): a constant. -/
def blockSize : U16 := 0x0001#16

/-- `Checksum(s)` for the Configuration loaded in the state (R184), over its table built from POLY and MODE.BITREV. -/
def checksum (s : State) (bytes : List U8) : U16 :=
  finalValue (foldSeq (buildTable s.bitrev s.poly) s.bitrev s.init bytes) s.finxor

/-- SUM16 (R181): it does not change the register. -/
def execSum16 (s : State) : Answer :=
  perform .digest (fun s => respondOk (finalValue s.crc s.finxor) s) s

/-- SUMB (R182): the two bytes in the output byte order, the first in DATA[15:8]. -/
def execSumb (s : State) : Answer :=
  perform .digest (fun s => respondOk (swapMux (finalValue s.crc s.finxor) s.bigend) s) s

/-- BLKSZ (R183): it needs nothing. -/
def execBlksz (s : State) : Answer := perform .nothing (fun s => respondOk blockSize s) s

end Sys2Proof.Machine
end

