-- ==== Sys2Proof/Machine/RegisterRead.lean ====
section
/-! DEFINITION. The register read RDST, one command per selector (44_status.md R200, R201). None writes any state. -/

namespace Sys2Proof.Machine

/-- RDST 0: STATUS as it stands before the command; it needs nothing. -/
def execRdstStatus (s : State) : Answer := perform .nothing (fun s => respondOk (statusView s) s) s

/-- RDST 1: POLY, in natural form as loaded. -/
def execRdstPoly (s : State) : Answer := perform .config (fun s => respondOk s.poly s) s

/-- RDST 2: INIT. -/
def execRdstInit (s : State) : Answer := perform .config (fun s => respondOk s.init s) s

/-- RDST 3: FINXOR. -/
def execRdstFinxor (s : State) : Answer := perform .config (fun s => respondOk s.finxor s) s

/-- RDST 4: MODE. -/
def execRdstMode (s : State) : Answer := perform .config (fun s => respondOk (modeView s) s) s

/-- RDST 5: CRC, the raw register, not the finalized value. -/
def execRdstCrc (s : State) : Answer := perform .digest (fun s => respondOk s.crc s) s

end Sys2Proof.Machine
end

