-- ==== Sys2Proof/Machine/Dispatch.lean ====
section
/-! DEFINITION. The dispatch of a decoded command to its meaning (30_encoding.md R79, last column). -/

namespace Sys2Proof.Machine

def exec (i : Instr) (s : State) : Host.Outcome State Fault Refusal :=
  match i with
  | .cfg poly init finxor bitrev bigend => Sys2Proof.Machine.execCfg poly init finxor bitrev bigend s
  | .cfgp sel => Sys2Proof.Machine.execCfgp sel s
  | .ensure => Sys2Proof.Machine.execEnsure s
  | .create => Sys2Proof.Machine.execCreate s
  | .loadcrc imm => Sys2Proof.Machine.execLoadcrc imm s
  | .reset => Sys2Proof.Machine.execReset s
  | .write0 => Sys2Proof.Machine.execWrite0 s
  | .write1 d0 => Sys2Proof.Machine.execWrite1 d0 s
  | .write2 d0 d1 => Sys2Proof.Machine.execWrite2 d0 d1 s
  | .write3 d0 d1 d2 => Sys2Proof.Machine.execWrite3 d0 d1 d2 s
  | .write4 d0 d1 d2 d3 => Sys2Proof.Machine.execWrite4 d0 d1 d2 d3 s
  | .write5 d0 d1 d2 d3 d4 => Sys2Proof.Machine.execWrite5 d0 d1 d2 d3 d4 s
  | .write6 d0 d1 d2 d3 d4 d5 => Sys2Proof.Machine.execWrite6 d0 d1 d2 d3 d4 d5 s
  | .sum16 => Sys2Proof.Machine.execSum16 s
  | .sumb => Sys2Proof.Machine.execSumb s
  | .blksz => Sys2Proof.Machine.execBlksz s
  | .rev16 imm => Sys2Proof.Machine.execRev16 imm s
  | .rdtab idx => Sys2Proof.Machine.execRdtab idx s
  | .rdstStatus => Sys2Proof.Machine.execRdstStatus s
  | .rdstPoly => Sys2Proof.Machine.execRdstPoly s
  | .rdstInit => Sys2Proof.Machine.execRdstInit s
  | .rdstFinxor => Sys2Proof.Machine.execRdstFinxor s
  | .rdstMode => Sys2Proof.Machine.execRdstMode s
  | .rdstCrc => Sys2Proof.Machine.execRdstCrc s

end Sys2Proof.Machine
end

