-- ==== Sys2Proof/Machine/Step.lean ====
section
/-! DEFINITION. One step of the block: it takes the next input of its port (20_memory.md R62) and carries it out as one
atomic step (R60); with no input pending it is idle and holds its state (60_exceptions.md R233). -/

namespace Sys2Proof.Machine

/-- One step. A command word is decoded and run, or fails E_ILLEGAL or E_RSVD (30_encoding.md R80 to R82,
60_exceptions.md R223); the hardware reset resets, and a command it abandons has no effect and no response
(70_reset_and_hazards.md R250). -/
def step (s : State) : Host.Outcome State Fault Refusal :=
  match nextInput s with
  | none => .next s
  | some (.hardwareReset _, s') => .next (hardwareReset s')
  | some (.command w, s') =>
    match decode w with
    | .ok i => exec i s'
    | .error r => .next (fail (rejectError r) s')

/-- The state with this word as the next command the port delivers, before any input already pending, so that `step` runs
it (log entry 3 says how a program comes to run). -/
def State.withFetchWord (s : State) (nbits w : Nat) : State :=
  { s with inputs := .command (tableWord nbits w) :: s.inputs }

end Sys2Proof.Machine
end

