-- ==== Sys2Proof/Machine/Assembler.lean ====
section
/-! DEFINITION. The assembler lines of 30_encoding.md R85 and the pseudo-instructions WRITES (R86) and CHECKSUM (R87): the
command words a line stands for. They add nothing to the block, which sees only the words. -/

namespace Sys2Proof.Machine

/-- A byte sequence given as an ASCII string: the sequence of its character codes (00_scope.md R15). -/
def ascii (chars : List Char) : List U8 := chars.map fun c => BitVec.ofNat 8 c.toNat

/-- `WRITE b0, ..., b(k-1)` (R85): a command for k ≤ 6, else no line. -/
def writeCommand : List U8 → Option Instr
  | [] => some .write0
  | [a] => some (.write1 a)
  | [a, b] => some (.write2 a b)
  | [a, b, c] => some (.write3 a b c)
  | [a, b, c, d] => some (.write4 a b c d)
  | [a, b, c, d, e] => some (.write5 a b c d e)
  | [a, b, c, d, e, f] => some (.write6 a b c d e f)
  | _ => none

/-- `WRITES` (R86): commands of six bytes each in order, and a last one with the rest if there is a rest; no command for
no bytes. -/
def writesCommands : List U8 → List Instr
  | a :: b :: c :: d :: e :: f :: rest => .write6 a b c d e f :: writesCommands rest
  | [a, b, c, d, e] => [.write5 a b c d e]
  | [a, b, c, d] => [.write4 a b c d]
  | [a, b, c] => [.write3 a b c]
  | [a, b] => [.write2 a b]
  | [a] => [.write1 a]
  | [] => []

/-- `CHECKSUM` (R87): CREATE, then WRITES, then SUM16. -/
def checksumCommands (bytes : List U8) : List Instr := [.create] ++ writesCommands bytes ++ [.sum16]

/-- The preset names of `CFGP` (R85); PPP is an alias of X25. -/
inductive PresetName where
  | x25
  | ppp
  | modbus
  | xmodem
  | kermit
  deriving DecidableEq, Repr

/-- The preset number of a name (40_configuration.md R101, 30_encoding.md R85). -/
def presetNumber : PresetName → U8
  | .x25 => 0#8
  | .ppp => 0#8
  | .modbus => 1#8
  | .xmodem => 2#8
  | .kermit => 3#8

/-- The register names of `RDST` (R85, 44_status.md R201). -/
inductive RegisterName where
  | status
  | poly
  | init
  | finxor
  | mode
  | crc
  deriving DecidableEq, Repr

/-- The RDST command of a register name (44_status.md R201). -/
def rdstCommand : RegisterName → Instr
  | .status => .rdstStatus
  | .poly => .rdstPoly
  | .init => .rdstInit
  | .finxor => .rdstFinxor
  | .mode => .rdstMode
  | .crc => .rdstCrc

/-- The register a selector number stands for (R85 `RDST n`, 44_status.md R201). -/
def registerOfSelector (n : Nat) : Option RegisterName :=
  match n with
  | 0 => some .status
  | 1 => some .poly
  | 2 => some .init
  | 3 => some .finxor
  | 4 => some .mode
  | 5 => some .crc
  | _ => none

/-- A line of assembler, its operands read (R85), and the two pseudo-instructions (R86, R87). -/
inductive AsmLine where
  | cfg (poly init finxor : U16) (bitrev bigend : Bool)
  | cfgp (name : PresetName)
  | ensure
  | create
  | loadcrc (imm : U16)
  | reset
  | write (bytes : List U8)
  | sum16
  | sumb
  | blksz
  | rev16 (imm : U16)
  | rdtab (idx : U8)
  | rdst (name : RegisterName)
  | rdstNumber (n : Nat)
  | writes (bytes : List U8)
  | checksum (bytes : List U8)
  deriving DecidableEq, Repr

/-- The commands a line stands for; none where the line is not one of R85's. -/
def lineCommands : AsmLine → Option (List Instr)
  | .cfg poly init finxor bitrev bigend => some [.cfg poly init finxor bitrev bigend]
  | .cfgp name => some [.cfgp (presetNumber name)]
  | .ensure => some [.ensure]
  | .create => some [.create]
  | .loadcrc imm => some [.loadcrc imm]
  | .reset => some [.reset]
  | .write bytes => (writeCommand bytes).map fun i => [i]
  | .sum16 => some [.sum16]
  | .sumb => some [.sumb]
  | .blksz => some [.blksz]
  | .rev16 imm => some [.rev16 imm]
  | .rdtab idx => some [.rdtab idx]
  | .rdst name => some [rdstCommand name]
  | .rdstNumber n => (registerOfSelector n).map fun name => [rdstCommand name]
  | .writes bytes => some (writesCommands bytes)
  | .checksum bytes => some (checksumCommands bytes)

/-- The command words of a line (R85). -/
def assemble (line : AsmLine) : Option (List CommandWord) := (lineCommands line).map fun is => is.map encode

end Sys2Proof.Machine
end

