-- ==== Sys2Proof/Machine/Hosts.lean ====
section
/-! DEFINITION. Several hosts on one command port (20_memory.md R64, 92_eei_decisions.md D22, 93_implementation_defined.md
U1). The block sees one merged sequence of whole commands; which one is the open parameter `HOST_INTERLEAVING`, an
argument here (log entry 6). -/

namespace Sys2Proof.Machine

/-- The merged command sequence, each command with its host's number. `order` is `HOST_INTERLEAVING`: the host whose next
command comes next, again and again; a turn of a host that has no command left (or does not exist) passes. -/
def mergeHosts : List Nat → List (List CommandWord) → List (Nat × CommandWord)
  | [], _ => []
  | h :: order, queues =>
    match queues[h]? with
    | some (w :: rest) => (h, w) :: mergeHosts order (queues.set h rest)
    | _ => mergeHosts order queues

/-- The hosts' commands delivered on the port in the order the parameter gives. -/
def deliverMerged (order : List Nat) (queues : List (List CommandWord)) (s : State) : State :=
  deliver ((mergeHosts order queues).map Prod.snd) s

end Sys2Proof.Machine
end

