-- ==== Sys2Proof/Safety.lean ====
section
/-! DEFINITION. What counts as a sound state of the block, in the spec's own invariants: the order of the three valid
flags (10_state.md R31), the table of a built Configuration (R28), ERRCODE against ERR (R33), the shape of every response
(30_encoding.md R71, 60_exceptions.md R220); the readable part of a state (10_state.md R36); runs; and the classes of commands
that the spec's rules speak of. -/

namespace Sys2Proof.Safety

open Sys2Proof.Machine

/-- DIGEST_VALID = 1 implies TABLE_VALID = 1, and TABLE_VALID = 1 implies CFG_VALID = 1 (10_state.md R31). -/
abbrev FlagsOrdered (s : State) : Prop :=
  (s.digestValid = true → s.tableValid = true) ∧ (s.tableValid = true → s.cfgValid = true)

/-- While TABLE_VALID = 1 every entry is BuildEntry of the loaded bit order and polynomial (10_state.md R28): the table
is the built table. -/
abbrev TableBuilt (s : State) : Prop :=
  s.tableValid = true → s.table = buildTable s.bitrev s.poly

/-- ERRCODE is 0x00 exactly when ERR = 0, and else one of the five codes (10_state.md R33, 60_exceptions.md R220). -/
abbrev ErrorCoherent (s : State) : Prop :=
  (s.err = false ↔ s.errcode = 0x00#8) ∧ s.errcode.toNat ≤ 5

/-- A response the block may give: a status code of R220, bits 23:16 zero, and DATA 0 for a failure (30_encoding.md
R71). -/
abbrev ResponseSound (r : ResponseWord) : Prop :=
  (responseStatus r).toNat ≤ 5 ∧ r.extractLsb' 16 8 = 0#8 ∧ (responseStatus r ≠ 0x00#8 → responseData r = 0x0000#16)

/-- The invariant every step keeps. -/
abbrev Inv (s : State) : Prop :=
  FlagsOrdered s ∧ TableBuilt s ∧ ErrorCoherent s ∧ ∀ r ∈ s.responses, ResponseSound r

/-- A run in which no command has failed (10_state.md R32). -/
abbrev NoFailure (s : State) : Prop := s.err = false

/-- The two states agree on all that holds a value (10_state.md R36): the flags, ERRCODE and the port sequences; POLY,
INIT, FINXOR and MODE if CFG_VALID = 1; TABLE if TABLE_VALID = 1; CRC if DIGEST_VALID = 1. -/
abbrev AgreeOnValues (s t : State) : Prop :=
  s.cfgValid = t.cfgValid ∧ s.tableValid = t.tableValid ∧ s.digestValid = t.digestValid ∧
    s.err = t.err ∧ s.errcode = t.errcode ∧ s.inputs = t.inputs ∧ s.responses = t.responses ∧
    (s.cfgValid = true →
      s.poly = t.poly ∧ s.init = t.init ∧ s.finxor = t.finxor ∧ s.bitrev = t.bitrev ∧ s.bigend = t.bigend) ∧
    (s.tableValid = true → s.table = t.table) ∧
    (s.digestValid = true → s.crc = t.crc)

/-! ### Runs -/

/-- `n` steps of the block. -/
def run (n : Nat) (s : State) : Answer := Sys2Proof.core.run n s

/-- A command sequence sent to the block, as many steps as it has commands (20_memory.md R62). -/
def runCommands (is : List Instr) (s : State) : Answer := run is.length (deliver (is.map encode) s)

/-- Bytes folded into a register under the Configuration loaded in the state, over the table built for it. -/
def foldOf (s : State) (crc : U16) (bytes : List U8) : U16 :=
  foldSeq (buildTable s.bitrev s.poly) s.bitrev crc bytes

/-! ### Classes of commands -/

/-- What a command may write when it succeeds: the rows of 10_state.md R35. -/
inductive WriteClass where
  /-- CFG, CFGP: the Configuration, and the flags of R104. -/
  | configuration
  /-- ENSURE: the table. -/
  | table
  /-- CREATE, LOADCRC: the table, CRC and DIGEST_VALID. -/
  | digest
  /-- RESET and WRITE: CRC. -/
  | register
  /-- SUM16, SUMB, BLKSZ, REV16, RDTAB, RDST: nothing. -/
  | nothing
  deriving DecidableEq, Repr

/-- The class of each command (10_state.md R35). -/
def writeClass : Instr → WriteClass
  | .cfg _ _ _ _ _ | .cfgp _ => .configuration
  | .ensure => .table
  | .create | .loadcrc _ => .digest
  | .reset | .write0 | .write1 _ | .write2 _ _ | .write3 _ _ _ | .write4 _ _ _ _ | .write5 _ _ _ _ _
  | .write6 _ _ _ _ _ _ => .register
  | .sum16 | .sumb | .blksz | .rev16 _ | .rdtab _ | .rdstStatus | .rdstPoly | .rdstInit | .rdstFinxor | .rdstMode
  | .rdstCrc => .nothing

/-- A WRITE command, of any count (30_encoding.md R76). -/
def isWrite : Instr → Bool
  | .write0 | .write1 _ | .write2 _ _ | .write3 _ _ _ | .write4 _ _ _ _ | .write5 _ _ _ _ _ | .write6 _ _ _ _ _ _ => true
  | .cfg _ _ _ _ _ | .cfgp _ | .ensure | .create | .loadcrc _ | .reset | .sum16 | .sumb | .blksz | .rev16 _ | .rdtab _
  | .rdstStatus | .rdstPoly | .rdstInit | .rdstFinxor | .rdstMode | .rdstCrc => false

/-- The column "needs CFG_VALID" of 60_exceptions.md R221. -/
def needsConfiguration : Instr → Bool
  | .cfg _ _ _ _ _ | .cfgp _ | .blksz | .rev16 _ | .rdstStatus => false
  | .ensure | .create | .loadcrc _ | .reset | .write0 | .write1 _ | .write2 _ _ | .write3 _ _ _ | .write4 _ _ _ _
  | .write5 _ _ _ _ _ | .write6 _ _ _ _ _ _ | .sum16 | .sumb | .rdtab _ | .rdstPoly | .rdstInit | .rdstFinxor
  | .rdstMode | .rdstCrc => true

/-- The column "needs TABLE_VALID" of R221, where it is a check of its own. -/
def needsTable : Instr → Bool
  | .rdtab _ => true
  | .cfg _ _ _ _ _ | .cfgp _ | .ensure | .create | .loadcrc _ | .reset | .write0 | .write1 _ | .write2 _ _
  | .write3 _ _ _ | .write4 _ _ _ _ | .write5 _ _ _ _ _ | .write6 _ _ _ _ _ _ | .sum16 | .sumb | .blksz | .rev16 _
  | .rdstStatus | .rdstPoly | .rdstInit | .rdstFinxor | .rdstMode | .rdstCrc => false

/-- The column "needs DIGEST_VALID" of R221. -/
def needsDigest : Instr → Bool
  | .reset | .write0 | .write1 _ | .write2 _ _ | .write3 _ _ _ | .write4 _ _ _ _ | .write5 _ _ _ _ _
  | .write6 _ _ _ _ _ _ | .sum16 | .sumb | .rdstCrc => true
  | .cfg _ _ _ _ _ | .cfgp _ | .ensure | .create | .loadcrc _ | .rdtab _ | .blksz | .rev16 _ | .rdstStatus | .rdstPoly
  | .rdstInit | .rdstFinxor | .rdstMode => false

/-- A word the decoder must refuse as reserved: one of the lines of the decoder of 30_encoding.md R84, the fields read as
numbers. F[7:2] ≠ 0 is F ≥ 4; P[47:16] ≠ 0 is P ≥ 2^16; P[47-8F : 0] is P modulo 2^(48-8F). -/
abbrev ReservedWord (w : CommandWord) : Prop :=
  let opc := w.toNat / 2 ^ 56
  let f := w.toNat / 2 ^ 48 % 2 ^ 8
  let p := w.toNat % 2 ^ 48
  (opc = 0x01 ∧ 4 ≤ f) ∨
    (opc = 0x02 ∧ (4 ≤ f ∨ p ≠ 0)) ∨
    ((opc = 0x03 ∨ opc = 0x04 ∨ opc = 0x06 ∨ opc = 0x08 ∨ opc = 0x09 ∨ opc = 0x0A) ∧ (f ≠ 0 ∨ p ≠ 0)) ∨
    ((opc = 0x05 ∨ opc = 0x0B) ∧ (f ≠ 0 ∨ 2 ^ 16 ≤ p)) ∨
    (opc = 0x07 ∧ (7 ≤ f ∨ (f < 6 ∧ p % 2 ^ (48 - 8 * f) ≠ 0))) ∨
    (opc = 0x0C ∧ p ≠ 0) ∨
    (opc = 0x0D ∧ (6 ≤ f ∨ p ≠ 0))

/-- A word with an unassigned opcode (30_encoding.md R82). -/
abbrev IllegalWord (w : CommandWord) : Prop :=
  let opc := w.toNat / 2 ^ 56
  opc = 0x00 ∨ 0x0E ≤ opc

end Sys2Proof.Safety
end

