-- ==== Sys2Proof/Certificates/Slice0/Obligations.lean ====
section
/-! DEFINITION. The statements about the block, from the numbered rules of spec/. Each docstring names the rules. A response
is written `responseWord st data`, whose bits ResponseWordLayout fixes; a failure is written out as the state
60_exceptions.md R222 gives. -/

open Sys2Proof Sys2Proof.Machine Sys2Proof.Safety

/-! ### Encoding (30_encoding.md) -/

/-- Decoding the encoding of a legal command gives the command back, at every value of its operands (R70, R72 to R77).
-/
def Obligations.DecodeOfEncode : Prop :=
  ∀ i : Instr, i.wf = true → decode (encode i) = .ok i

/-- Every word that decodes to a command is that command's one encoding, and the command is legal: no encoding has a
second spelling (R80, R83, R84). -/
def Obligations.EncodeOfDecode : Prop :=
  ∀ (w : CommandWord) (i : Instr), decode w = .ok i → i.wf = true ∧ encode i = w

/-- A word decodes to a command exactly when it lies in a row of the match and mask table, and then in the command's own
row and in no other (R79). -/
def Obligations.OpcodeMapDecodes : Prop :=
  ∀ w : CommandWord,
    (∀ i, decode w = .ok i → opcodeRow i ∈ opcodeRows ∧ (opcodeRow i).admits w = true) ∧
    (∀ r ∈ opcodeRows, r.admits w = true → ∃ i, decode w = .ok i ∧ opcodeRow i = r)

/-- A word with an unassigned opcode decodes as illegal, and no other word does; it fails with E_ILLEGAL whatever its
other bits (R82). -/
def Obligations.UnassignedOpcodesFail : Prop :=
  (∀ w : CommandWord, decode w = .error .illegal ↔ IllegalWord w) ∧
  ∀ (s : State) (w : CommandWord) (rest : List PortInput), s.inputs = .command w :: rest → IllegalWord w →
    step s = .next { s with
      inputs := rest, err := true, errcode := if s.err then s.errcode else 0x01#8,
      responses := s.responses ++ [responseWord 0x01#8 0x0000#16] }

/-- A word with a reserved bit set or a reserved operand value decodes as reserved, and no other word does; it executes
nothing and fails with E_RSVD (R80, R81, R84). -/
def Obligations.ReservedWordsFail : Prop :=
  (∀ w : CommandWord, decode w = .error .reserved ↔ ReservedWord w) ∧
  ∀ (s : State) (w : CommandWord) (rest : List PortInput), s.inputs = .command w :: rest → ReservedWord w →
    step s = .next { s with
      inputs := rest, err := true, errcode := if s.err then s.errcode else 0x02#8,
      responses := s.responses ++ [responseWord 0x02#8 0x0000#16] }

/-- A few words of R85's table decode to their lines. -/
def Obligations.SpecWordsDecode : Prop :=
  decode 0x01011021FFFFFFFF#64 = .ok (.cfg 0x1021#16 0xFFFF#16 0xFFFF#16 true false) ∧
  decode 0x0102102100000000#64 = .ok (.cfg 0x1021#16 0x0000#16 0x0000#16 false true) ∧
  decode 0x0203000000000000#64 = .ok (.cfgp 3#8) ∧
  decode 0x0500000000001234#64 = .ok (.loadcrc 0x1234#16) ∧
  decode 0x0706313233343536#64 = .ok (.write6 0x31#8 0x32#8 0x33#8 0x34#8 0x35#8 0x36#8) ∧
  decode 0x0703373839000000#64 = .ok (.write3 0x37#8 0x38#8 0x39#8) ∧
  decode 0x0C80000000000000#64 = .ok (.rdtab 0x80#8) ∧
  decode 0x0D05000000000000#64 = .ok .rdstCrc

/-- The words of every line of assembler, written as numbers: OPC times 2^56, F times 2^48, A times 2^32, B times 2^16, C
(R85). CFG has F = {bigend, bitrev}, A, B, C the three values; CFGP X25, PPP, MODBUS, XMODEM, KERMIT have F = 0, 0, 1, 2,
3; the six lines with no operand, LOADCRC, REV16, RDTAB and RDST by name and by number (none from 6) follow. WRITE of k
bytes has F = k, Dj = bj and the unused bytes 0 for k at most 6, and there is no such line for more. A string stands for
its ASCII bytes. WRITES is WRITE lines of six bytes each and a last one of the rest, no command for no bytes (R86);
CHECKSUM is CREATE, WRITES, SUM16 (R87). And the words of every line decode, each to a legal command, to the line's
commands in order. -/
def Obligations.AssembledLinesDecode : Prop :=
  let words (line : AsmLine) : Option (List Nat) := (assemble line).map fun ws => ws.map BitVec.toNat
  (∀ (poly init finxor : U16) (bitrev bigend : Bool),
    words (.cfg poly init finxor bitrev bigend) =
      some [0x01 * 2 ^ 56 + (2 * bigend.toNat + bitrev.toNat) * 2 ^ 48 + poly.toNat * 2 ^ 32 + init.toNat * 2 ^ 16 +
        finxor.toNat]) ∧
  (words (.cfgp .x25) = some [0x0200000000000000] ∧ words (.cfgp .ppp) = some [0x0200000000000000] ∧
    words (.cfgp .modbus) = some [0x0201000000000000] ∧ words (.cfgp .xmodem) = some [0x0202000000000000] ∧
    words (.cfgp .kermit) = some [0x0203000000000000]) ∧
  (words .ensure = some [0x0300000000000000] ∧ words .create = some [0x0400000000000000] ∧
    words .reset = some [0x0600000000000000] ∧ words .sum16 = some [0x0800000000000000] ∧
    words .sumb = some [0x0900000000000000] ∧ words .blksz = some [0x0A00000000000000]) ∧
  (∀ imm : U16, words (.loadcrc imm) = some [0x05 * 2 ^ 56 + imm.toNat] ∧
    words (.rev16 imm) = some [0x0B * 2 ^ 56 + imm.toNat]) ∧
  (∀ idx : U8, words (.rdtab idx) = some [0x0C * 2 ^ 56 + idx.toNat * 2 ^ 48]) ∧
  (words (.rdst .status) = some [0x0D00000000000000] ∧ words (.rdst .poly) = some [0x0D01000000000000] ∧
    words (.rdst .init) = some [0x0D02000000000000] ∧ words (.rdst .finxor) = some [0x0D03000000000000] ∧
    words (.rdst .mode) = some [0x0D04000000000000] ∧ words (.rdst .crc) = some [0x0D05000000000000]) ∧
  (∀ n : Nat, words (.rdstNumber n) = if n < 6 then some [0x0D * 2 ^ 56 + n * 2 ^ 48] else none) ∧
  (∀ bytes : List U8, (bytes.length ≤ 6 → ∃ w, words (.write bytes) = some [w] ∧
      w / 2 ^ 56 = 0x07 ∧ w / 2 ^ 48 % 2 ^ 8 = bytes.length ∧
      ∀ j, j < 6 → w / 2 ^ (40 - 8 * j) % 2 ^ 8 = (bytes.getD j 0x00#8).toNat) ∧
    (6 < bytes.length → words (.write bytes) = none)) ∧
  (∀ chars : List Char, (∀ c ∈ chars, c.toNat < 128) → (ascii chars).map BitVec.toNat = chars.map Char.toNat) ∧
  (words (.writes []) = some [] ∧
    (∀ bytes : List U8, 0 < bytes.length → bytes.length ≤ 6 → words (.writes bytes) = words (.write bytes)) ∧
    ∀ first rest : List U8, first.length = 6 → ∃ w ws, words (.write first) = some [w] ∧
      words (.writes rest) = some ws ∧ words (.writes (first ++ rest)) = some (w :: ws)) ∧
  (∀ bytes : List U8, ∃ ws, words (.writes bytes) = some ws ∧
    words (.checksum bytes) = some ([0x0400000000000000] ++ ws ++ [0x0800000000000000])) ∧
  ∀ (line : AsmLine) (ws : List CommandWord), assemble line = some ws →
    ∃ is, lineCommands line = some is ∧ ws.map decode = is.map Except.ok ∧ ∀ i ∈ is, i.wf = true

/-- The response word: ST in bits 31:24, zero in bits 23:16, DATA in bits 15:0 (R71). -/
def Obligations.ResponseWordLayout : Prop :=
  ∀ (st : U8) (data : U16), (responseWord st data).toNat = st.toNat * 2 ^ 24 + data.toNat ∧
    responseStatus (responseWord st data) = st ∧ responseData (responseWord st data) = data

/-! ### The machine as a whole -/

/-- When the next input is a word that decodes to a legal command, the step takes the word off the port and is exactly
the command's execution (20_memory.md R62). -/
def Obligations.StepRunsDecodedCommand : Prop :=
  ∀ (s : State) (w : CommandWord) (rest : List PortInput) (i : Instr),
    s.inputs = .command w :: rest → decode w = .ok i → i.wf = true → step s = exec i { s with inputs := rest }

/-- With no input the block is idle and holds all its state (60_exceptions.md R233). -/
def Obligations.IdleBlockHoldsState : Prop :=
  ∀ s : State, s.inputs = [] → step s = .next s

/-- State.reset has the values the spec states for reset (10_state.md R40). What the registers and the table hold is the
model's choice (log entry 1) and is not stated. -/
def Obligations.ResetValues : Prop :=
  State.reset.cfgValid = false ∧ State.reset.tableValid = false ∧ State.reset.digestValid = false ∧
    State.reset.err = false ∧ State.reset.errcode = 0x00#8

/-- The hardware reset clears the four flags and ERRCODE and gives no response, and the command in execution, if any, is
abandoned and leaves no trace (70_reset_and_hazards.md R250). That the reset and the command it abandons are one item of
the inputs, and that the inputs behind it and the responses before it stand, is the model's choice (log entry 4). -/
def Obligations.HardwareResetClears : Prop :=
  ∀ (s : State) (abandoned : Option CommandWord) (rest : List PortInput),
    s.inputs = .hardwareReset abandoned :: rest →
    ∃ t, step s = .next t ∧ t.cfgValid = false ∧ t.tableValid = false ∧ t.digestValid = false ∧ t.err = false ∧
      t.errcode = 0x00#8 ∧ t.inputs = rest ∧ t.responses = s.responses

/-- Every command word gets exactly one response, whose status is one of R220's codes, whose bits 23:16 are zero, and
whose DATA is 0 if it reports a failure; nothing stops the block (30_encoding.md R71, 60_exceptions.md R220, R222). -/
def Obligations.EveryCommandGetsOneResponse : Prop :=
  ∀ (s : State) (w : CommandWord) (rest : List PortInput), s.inputs = .command w :: rest →
    ∃ t r, step s = .next t ∧ t.inputs = rest ∧ t.responses = s.responses ++ [r] ∧ ResponseSound r

/-- A command sequence, whatever the words, delivered in any state with no input pending, is run one word a step, in
order, each word giving one response: when the words `us` have run, exactly as many responses as `us` has words have been
given, after the earlier ones, and the words `vs` behind them are still to come. So n commands give exactly n responses,
in order (70_reset_and_hazards.md R267; 20_memory.md R62). -/
def Obligations.CommandSequencesGetAllResponses : Prop :=
  ∀ (us vs : List CommandWord) (s : State), s.inputs = [] →
    ∃ t rs, run us.length (deliver (us ++ vs) s) = .next t ∧ t.inputs = vs.map PortInput.command ∧
      rs.length = us.length ∧ t.responses = s.responses ++ rs ∧ ∀ r ∈ rs, ResponseSound r

/-! ### Failures (60_exceptions.md) -/

/-- A command word whose response is a failure, by its own checks or by the decoder, changes nothing but ERR, ERRCODE
and the responses: ERR becomes 1, and ERRCODE takes the code only if ERR was 0; the DATA is 0. One that succeeds writes
neither ERR nor ERRCODE (R222; 10_state.md R42). -/
def Obligations.FailuresChangeOnlyErrorState : Prop :=
  ∀ (s : State) (w : CommandWord) (rest : List PortInput), s.inputs = .command w :: rest →
    ∃ t st data, step s = .next t ∧ t.responses = s.responses ++ [responseWord st data] ∧
      (st ≠ 0x00#8 → data = 0x0000#16 ∧
        t = { s with
          inputs := rest, err := true, errcode := if s.err then s.errcode else st, responses := t.responses }) ∧
      (st = 0x00#8 → t.err = s.err ∧ t.errcode = s.errcode)

/-- The one status code a command word gets, by the order of the checks: E_ILLEGAL, E_RSVD, E_NOCFG, E_NOTAB, E_NODIG
(R223), with the prerequisites of R221. -/
def Obligations.ChecksAreMadeInOrder : Prop :=
  ∀ (s : State) (w : CommandWord) (rest : List PortInput), s.inputs = .command w :: rest →
    ∃ t st data, step s = .next t ∧ t.responses = s.responses ++ [responseWord st data] ∧
      st = match decode w with
        | .error .illegal => 0x01#8
        | .error .reserved => 0x02#8
        | .ok i =>
          if needsConfiguration i && !s.cfgValid then 0x03#8
          else if needsTable i && !s.tableValid then 0x04#8
          else if needsDigest i && !s.digestValid then 0x05#8
          else 0x00#8

/-- Where the commands trap: each command that needs a Configuration, a built table or a Digest fails with E_NOCFG,
E_NOTAB or E_NODIG where it is missing, an earlier check first (R220, R221, R223). -/
def Obligations.MissingPrerequisitesTrap : Prop :=
  ∀ (i : Instr) (s : State), i.wf = true →
    (needsConfiguration i = true → s.cfgValid = false → exec i s = .next { s with
      err := true, errcode := if s.err then s.errcode else 0x03#8,
      responses := s.responses ++ [responseWord 0x03#8 0x0000#16] }) ∧
    (needsTable i = true → s.cfgValid = true → s.tableValid = false → exec i s = .next { s with
      err := true, errcode := if s.err then s.errcode else 0x04#8,
      responses := s.responses ++ [responseWord 0x04#8 0x0000#16] }) ∧
    (needsDigest i = true → s.cfgValid = true → s.digestValid = false → exec i s = .next { s with
      err := true, errcode := if s.err then s.errcode else 0x05#8,
      responses := s.responses ++ [responseWord 0x05#8 0x0000#16] })

/-- Directly after reset, of the legal commands exactly CFG, CFGP, REV16, BLKSZ and RDST STATUS succeed
(70_reset_and_hazards.md R251). -/
def Obligations.SucceedDirectlyAfterReset : Prop :=
  ∀ i : Instr, i.wf = true → ∃ t st data, exec i State.reset = .next t ∧ t.responses = [responseWord st data] ∧
    (st = 0x00#8 ↔ (∃ p v f b e, i = .cfg p v f b e) ∨ (∃ n, i = .cfgp n) ∨ (∃ v, i = .rev16 v) ∨ i = .blksz ∨
      i = .rdstStatus)

/-- ERR is sticky and ERRCODE keeps the first code: a step that is not the hardware reset leaves a set ERR set and
ERRCODE as it is then (R226; 10_state.md R32, R33). -/
def Obligations.ErrorIsSticky : Prop :=
  ∀ s t : State, (∀ abandoned rest, s.inputs ≠ .hardwareReset abandoned :: rest) → step s = .next t →
    s.err = true → t.err = true ∧ t.errcode = s.errcode

/-! ### Invariants -/

/-- Every step keeps the invariant: the flags stay ordered, a built table stays the table of the loaded polynomial and
bit order, ERRCODE agrees with ERR, every response is sound (10_state.md R28, R31, R33; 30_encoding.md R71). -/
def Obligations.StepKeepsInvariant : Prop :=
  ∀ s t : State, Inv s → step s = .next t → Inv t

/-- The state after reset meets the invariant. -/
def Obligations.ResetMeetsInvariant : Prop :=
  Inv State.reset

/-- The table invariant: while TABLE_VALID = 1 every entry is BuildEntry of the loaded bit order and polynomial:
TABLE_VALID is 0 after reset, and every step keeps it so; and no command but CFG and CFGP changes TABLE, POLY or BITREV
then, while those clear TABLE_VALID (10_state.md R28). -/
def Obligations.BuiltTableIsNeverMutated : Prop :=
  State.reset.tableValid = false ∧
  (∀ s t : State, step s = .next t →
    (s.tableValid = true → ∀ i, tabRead s.table i = buildEntry s.bitrev s.poly i) →
    t.tableValid = true → ∀ i, tabRead t.table i = buildEntry t.bitrev t.poly i) ∧
  ∀ (i : Instr) (s t : State), exec i s = .next t → i.wf = true → s.tableValid = true →
    (writeClass i ≠ .configuration →
      t.table = s.table ∧ t.poly = s.poly ∧ t.bitrev = s.bitrev ∧ t.tableValid = true) ∧
    (writeClass i = .configuration → t.tableValid = false)

/-- Which command may write what (10_state.md R35, the W entries; R42): the Configuration registers and CFG_VALID only
CFG and CFGP; TABLE_VALID and the table only these, ENSURE, CREATE and LOADCRC; DIGEST_VALID only CFG, CFGP, CREATE and
LOADCRC; CRC only these, RESET and WRITE; no command touches the inputs. -/
def Obligations.CommandsWriteOnlyTheirState : Prop :=
  ∀ (i : Instr) (s t : State), exec i s = .next t →
    (writeClass i ≠ .configuration → t.poly = s.poly ∧ t.init = s.init ∧ t.finxor = s.finxor ∧ t.bitrev = s.bitrev ∧
      t.bigend = s.bigend ∧ t.cfgValid = s.cfgValid) ∧
    (writeClass i = .register ∨ writeClass i = .nothing → t.tableValid = s.tableValid ∧ t.table = s.table) ∧
    (writeClass i ≠ .configuration → writeClass i ≠ .digest → t.digestValid = s.digestValid) ∧
    (writeClass i = .table ∨ writeClass i = .nothing → t.crc = s.crc) ∧
    t.inputs = s.inputs

/-- No unspecified value can reach a response: two states that differ only in registers that hold no value (10_state.md
R36) give, step for step, the same responses and again such states. So what the model lets those registers hold after
reset cannot be observed. -/
def Obligations.UnspecifiedValuesNeverReachResponses : Prop :=
  ∀ s s' t : State, FlagsOrdered s → AgreeOnValues s s' → step s = .next t →
    ∃ t', step s' = .next t' ∧ AgreeOnValues t t'

/-! ### Configuration commands (40_configuration.md) -/

/-- CFG loads its five operands, and CFGP with a legal preset number some five values; both set CFG_VALID, clear
TABLE_VALID and DIGEST_VALID, change nothing else, and answer 0 (R102, R103, R104). What TABLE and CRC hold afterwards,
when they hold no value, is not stated (log entry 7), and which five values a preset number has is CfgpLoadsPreset's. -/
def Obligations.CfgAndCfgpLoadConfiguration : Prop :=
  (∀ (s : State) (poly init finxor : U16) (bitrev bigend : Bool), ∃ table crc,
    exec (.cfg poly init finxor bitrev bigend) s = .next { s with
      poly := poly, init := init, finxor := finxor, bitrev := bitrev, bigend := bigend,
      cfgValid := true, tableValid := false, digestValid := false, table := table, crc := crc,
      responses := s.responses ++ [responseWord 0x00#8 0x0000#16] }) ∧
  ∀ sel : U8, sel.toNat < 4 → ∃ poly init finxor bitrev bigend, ∀ s : State, ∃ table crc,
    exec (.cfgp sel) s = .next { s with
      poly := poly, init := init, finxor := finxor, bitrev := bitrev, bigend := bigend,
      cfgValid := true, tableValid := false, digestValid := false, table := table, crc := crc,
      responses := s.responses ++ [responseWord 0x00#8 0x0000#16] }

/-- CFGP loads the tuple of its preset number, as a CFG with the same five values does (R103). The tuples are the spec's
own general knowledge (R101, 93_implementation_defined.md G1; log entry 5). -/
def Obligations.CfgpLoadsPreset : Prop :=
  ∀ s : State,
    exec (.cfgp 0#8) s = exec (.cfg 0x1021#16 0xFFFF#16 0xFFFF#16 true false) s ∧
    exec (.cfgp 1#8) s = exec (.cfg 0x8005#16 0xFFFF#16 0x0000#16 true false) s ∧
    exec (.cfgp 2#8) s = exec (.cfg 0x1021#16 0x0000#16 0x0000#16 false true) s ∧
    exec (.cfgp 3#8) s = exec (.cfg 0x1021#16 0x0000#16 0x0000#16 true false) s

/-- The meaning of CFGP, given a reserved preset number as it stands, fails with E_RSVD. The decoder never passes such a
number on (ReservedWordsFail states 30_encoding.md R81 of the words); that the meaning itself fails so is the model's
choice (log entry 9). -/
def Obligations.ReservedPresetFails : Prop :=
  ∀ (s : State) (sel : U8), 4 ≤ sel.toNat →
    exec (.cfgp sel) s = .next { s with
      err := true, errcode := if s.err then s.errcode else 0x02#8,
      responses := s.responses ++ [responseWord 0x02#8 0x0000#16] }

/-! ### Table generator (41_table_generator.md) -/

/-- rev16 takes bit i to bit 15 - i, and is its own inverse (R120). -/
def Obligations.Rev16ReversesBits : Prop :=
  (∀ (v : U16) (i : Nat), i < 16 → (rev16 v).getLsbD (15 - i) = v.getLsbD i) ∧
  (∀ v : U16, rev16 (rev16 v) = v) ∧
  rev16 0x1021#16 = 0x8408#16 ∧ rev16 0x8005#16 = 0xA001#16 ∧ rev16 0x0001#16 = 0x8000#16

/-- The two entry builders as eight rounds on numbers: the bit-reversed one starts from the byte in the low byte and
halves, the normal one starts from the byte in the high byte and doubles modulo 2^16, each XORing the polynomial when a
1 is shifted out; BITREV selects the builder, and only the bit-reversed one gets the reversed polynomial (R121, R122,
R123). -/
def Obligations.BuildersRunEightRounds : Prop :=
  (∀ (rp : U16) (i : U8), (buildEntryR rp i).toNat =
    (fun c : Nat => if c % 2 = 1 then (c / 2) ^^^ rp.toNat else c / 2)^[8] i.toNat) ∧
  (∀ (poly : U16) (i : U8), (buildEntryN poly i).toNat =
    (fun c : Nat => if 2 ^ 15 ≤ c then (2 * c % 2 ^ 16) ^^^ poly.toNat else 2 * c % 2 ^ 16)^[8] (i.toNat * 2 ^ 8)) ∧
  (∀ (poly : U16) (i : U8), buildEntry true poly i = buildEntryR (rev16 poly) i ∧
    buildEntry false poly i = buildEntryN poly i)

/-- The table build writes, entry after entry from index 0 to 255, what TabWrite of BuildEntry writes, whatever the
table held before (R124; 00_scope.md R13). -/
def Obligations.TableBuildIsTheEntryLoop : Prop :=
  ∀ (bitrev : Bool) (poly : U16) (old : Vector U16 Config.tableEntries),
    (List.range 256).foldl
      (fun t i => tabWrite (BitVec.ofNat 8 i) (buildEntry bitrev poly (BitVec.ofNat 8 i)) t) old =
      buildTable bitrev poly

/-- Entry 0 is 0; entries are linear in the index; entry 0x80 of the bit-reversed table is the reversed polynomial and
entry 0x01 of the normal table the polynomial; the zero polynomial's table is all 0; and R129's examples. -/
def Obligations.TableEntryProperties : Prop :=
  (∀ (b : Bool) (p : U16), buildEntry b p 0x00#8 = 0x0000#16) ∧
  (∀ (b : Bool) (p : U16) (i j : U8), buildEntry b p (i ^^^ j) = buildEntry b p i ^^^ buildEntry b p j) ∧
  (∀ p : U16, buildEntryR (rev16 p) 0x80#8 = rev16 p ∧ buildEntryN p 0x01#8 = p) ∧
  (∀ (b : Bool) (i : U8), buildEntry b 0x0000#16 i = 0x0000#16) ∧
  (buildEntry true 0x1021#16 0x01#8 = 0x1189#16 ∧ buildEntry true 0x1021#16 0x80#8 = 0x8408#16 ∧
    buildEntry true 0x1021#16 0xFF#8 = 0x0F78#16) ∧
  (buildEntry false 0x1021#16 0x01#8 = 0x1021#16 ∧ buildEntry false 0x1021#16 0x80#8 = 0x9188#16 ∧
    buildEntry false 0x1021#16 0xFF#8 = 0x1EF0#16) ∧
  (buildEntry true 0x8005#16 0x01#8 = 0xC0C1#16 ∧ buildEntry true 0x8005#16 0x80#8 = 0xA001#16 ∧
    buildEntry true 0x8005#16 0xFF#8 = 0x4040#16)

/-- REV16 answers the reversed immediate and writes no state (R125). -/
def Obligations.Rev16Completes : Prop :=
  ∀ (s : State) (imm : U16), ∃ data,
    exec (.rev16 imm) s = .next { s with responses := s.responses ++ [responseWord 0x00#8 data] } ∧
    ∀ i, i < 16 → data.getLsbD i = imm.getLsbD (15 - i)

/-- ENSURE with a Configuration loaded: it builds all 256 entries and answers 1 if the table was not built, and else
changes nothing and answers 0 (R126, R124). -/
def Obligations.EnsureBuildsOnce : Prop :=
  (∀ s : State, s.cfgValid = true → s.tableValid = false → ∃ table,
    exec .ensure s = .next { s with
      table := table, tableValid := true, responses := s.responses ++ [responseWord 0x00#8 0x0001#16] } ∧
    ∀ i, tabRead table i = buildEntry s.bitrev s.poly i) ∧
  (∀ s : State, s.cfgValid = true → s.tableValid = true →
    exec .ensure s = .next { s with responses := s.responses ++ [responseWord 0x00#8 0x0000#16] })

/-- RDTAB with a built table answers the entry of its index and writes no state (R127). -/
def Obligations.RdtabReadsEntry : Prop :=
  ∀ (s : State) (idx : U8), s.cfgValid = true → s.tableValid = true →
    exec (.rdtab idx) s = .next { s with
      responses := s.responses ++ [responseWord 0x00#8 (s.table[idx.toNat]'idx.isLt)] }

/-! ### Update engine (42_update_engine.md) -/

/-- The two folds on numbers: the index is the low byte (bit-reversed) or the high byte (normal) XOR the input byte, the
entry is XORed with the register shifted right or, dropping the bits above bit 15, left by 8 (R150, R151). -/
def Obligations.FoldFormulas : Prop :=
  ∀ (t : Vector U16 Config.tableEntries) (crc : U16) (b : U8),
    (foldR t crc b).toNat =
      (tabRead t (BitVec.ofNat 8 ((crc.toNat % 2 ^ 8) ^^^ b.toNat))).toNat ^^^ (crc.toNat / 2 ^ 8) ∧
    (foldN t crc b).toNat =
      (tabRead t (BitVec.ofNat 8 ((crc.toNat / 2 ^ 8) ^^^ b.toNat))).toNat ^^^ (crc.toNat * 2 ^ 8 % 2 ^ 16)

/-- The table-driven fold equals the bit-by-bit one, in both conventions: eight rounds of the builder on the register
XOR the byte (in the low byte, or in the high byte). -/
def Obligations.TableFoldEqualsBitwiseFold : Prop :=
  ∀ (poly crc : U16) (b : U8),
    foldByte (buildTable true poly) true crc b = (roundR (rev16 poly))^[8] (crc ^^^ zext16 b) ∧
    foldByte (buildTable false poly) false crc b = (roundN poly)^[8] (crc ^^^ joinBytes b 0x00#8)

/-- The two bit-order conventions are mirror images: folding reversed bytes into the reversed register under the
bit-reversed convention gives the reverse of the normal convention's register (R130). -/
def Obligations.ConventionsAreMirrorImages : Prop :=
  ∀ (poly crc : U16) (bytes : List U8),
    foldSeq (buildTable true poly) true (rev16 crc) (bytes.map BitVec.reverse) =
      rev16 (foldSeq (buildTable false poly) false crc bytes)

/-- The fold is linear: with the table of any polynomial, folding the XOR of two byte sequences of one length into the
XOR of two registers gives the XOR of the two folds (from the linearity of the entries, 41_table_generator.md R129). -/
def Obligations.FoldIsLinear : Prop :=
  ∀ (bitrev : Bool) (poly crc crc' : U16) (bytes bytes' : List U8), bytes.length = bytes'.length →
    foldSeq (buildTable bitrev poly) bitrev (crc ^^^ crc') (List.zipWith (fun a b => a ^^^ b) bytes bytes') =
      foldSeq (buildTable bitrev poly) bitrev crc bytes ^^^ foldSeq (buildTable bitrev poly) bitrev crc' bytes'

/-- Split invariance: folding in two parts, at any split, is folding the whole; so from a state with a Digest two runs
of WRITE commands whose data bytes concatenate to the same sequence, however split, leave the same CRC, namely the fold
of the sequence (R152, R153, R157). -/
def Obligations.SplitInvariance : Prop :=
  (∀ (t : Vector U16 Config.tableEntries) (bitrev : Bool) (crc : U16) (s1 s2 : List U8),
    foldSeq t bitrev (foldSeq t bitrev crc s1) s2 = foldSeq t bitrev crc (s1 ++ s2)) ∧
  ∀ (s : State) (is js : List Instr), s.inputs = [] → s.cfgValid = true → s.digestValid = true →
    (∀ i ∈ is ++ js, isWrite i = true) → is.flatMap dataBytes = js.flatMap dataBytes →
    ∃ t u, runCommands is s = .next t ∧ runCommands js s = .next u ∧ t.crc = u.crc ∧
      t.crc = foldSeq s.table s.bitrev s.crc (is.flatMap dataBytes)

/-- CREATE with a Configuration loaded: the table is built unless it was, CRC is INIT, a Digest exists, nothing else
changes, the answer is 0 (R154). -/
def Obligations.CreateStartsDigest : Prop :=
  ∀ s : State, s.cfgValid = true → ∃ table,
    exec .create s = .next { s with
      table := table, tableValid := true, crc := s.init, digestValid := true,
      responses := s.responses ++ [responseWord 0x00#8 0x0000#16] } ∧
    (s.tableValid = true → table = s.table) ∧
    (s.tableValid = false → ∀ i, tabRead table i = buildEntry s.bitrev s.poly i)

/-- LOADCRC with a Configuration loaded: as CREATE, but CRC is the immediate; LOADCRC INIT is CREATE (R155). -/
def Obligations.LoadcrcSetsRegister : Prop :=
  (∀ (s : State) (imm : U16), s.cfgValid = true → ∃ table,
    exec (.loadcrc imm) s = .next { s with
      table := table, tableValid := true, crc := imm, digestValid := true,
      responses := s.responses ++ [responseWord 0x00#8 0x0000#16] } ∧
    (s.tableValid = true → table = s.table) ∧
    (s.tableValid = false → ∀ i, tabRead table i = buildEntry s.bitrev s.poly i)) ∧
  ∀ s : State, exec (.loadcrc s.init) s = exec .create s

/-- RESET with a Digest: CRC is INIT again, nothing else changes, the answer is 0 (R156; 70_reset_and_hazards.md R252).
-/
def Obligations.ResetRestoresInit : Prop :=
  ∀ s : State, s.cfgValid = true → s.digestValid = true →
    exec .reset s = .next { s with
      crc := s.init, responses := s.responses ++ [responseWord 0x00#8 0x0000#16] }

/-- WRITE with a Digest folds its k bytes one after the other, the first first, changes nothing but CRC, and answers k,
for each k from 0 to 6 (R157). -/
def Obligations.WriteFoldsBytes : Prop :=
  ∀ (s : State) (d0 d1 d2 d3 d4 d5 : U8), s.cfgValid = true → s.digestValid = true →
    let f := foldByte s.table s.bitrev
    let answer (crc : U16) (k : U16) : Answer :=
      .next { s with crc := crc, responses := s.responses ++ [responseWord 0x00#8 k] }
    exec .write0 s = answer s.crc 0#16 ∧
    exec (.write1 d0) s = answer (f s.crc d0) 1#16 ∧
    exec (.write2 d0 d1) s = answer (f (f s.crc d0) d1) 2#16 ∧
    exec (.write3 d0 d1 d2) s = answer (f (f (f s.crc d0) d1) d2) 3#16 ∧
    exec (.write4 d0 d1 d2 d3) s = answer (f (f (f (f s.crc d0) d1) d2) d3) 4#16 ∧
    exec (.write5 d0 d1 d2 d3 d4) s = answer (f (f (f (f (f s.crc d0) d1) d2) d3) d4) 5#16 ∧
    exec (.write6 d0 d1 d2 d3 d4 d5) s = answer (f (f (f (f (f (f s.crc d0) d1) d2) d3) d4) d5) 6#16

/-- WRITES of any byte sequence: ceil(n/6) commands, all but the rest with six bytes, their data concatenating to the
sequence; run from a state with a Digest they fold it whole and their answers add up to n (30_encoding.md R86). -/
def Obligations.WritesFoldsWholeSequence : Prop :=
  ∀ bytes : List U8,
    (writesCommands bytes).length = (bytes.length + 5) / 6 ∧
    (writesCommands bytes).flatMap dataBytes = bytes ∧
    (∀ i ∈ (writesCommands bytes).take (bytes.length / 6), (dataBytes i).length = 6) ∧
    ∀ s : State, s.inputs = [] → s.cfgValid = true → s.digestValid = true →
      ∃ rs, runCommands (writesCommands bytes) s = .next { s with
          crc := foldSeq s.table s.bitrev s.crc bytes, responses := s.responses ++ rs } ∧
        (∀ r ∈ rs, responseStatus r = 0x00#8) ∧
        (rs.map fun r => (responseData r).toNat).sum = bytes.length

/-- Streaming equivalence, from any state with a Configuration loaded whose table, if built, is the built table: CREATE,
then any mixture of WRITE commands and of ENSURE, SUM16, SUMB, BLKSZ, REV16, RDTAB and RDST, then SUM16: the last answer
is the one-shot checksum of all the data bytes written, and CRC is their fold from INIT (R158; 43_finalization.md R184).
-/
def Obligations.StreamingEquivalence : Prop :=
  ∀ (s : State) (is : List Instr), s.inputs = [] → s.cfgValid = true → TableBuilt s →
    (∀ i ∈ is, isWrite i = true ∨ writeClass i = .nothing ∨ i = .ensure) →
    ∃ t rs, runCommands ([.create] ++ is ++ [.sum16]) s = .next t ∧
      t.crc = foldOf s s.init (is.flatMap dataBytes) ∧
      t.responses = s.responses ++ rs ++ [responseWord 0x00#8 (checksum s (is.flatMap dataBytes))]

/-- Reset equivalence: from a state with a Digest and its table, RESET followed by WRITE commands leaves the CRC that
CREATE followed by the same commands leaves, namely the fold of their data from INIT (R159). -/
def Obligations.ResetEquivalence : Prop :=
  ∀ (s : State) (is : List Instr), s.inputs = [] → s.cfgValid = true → s.digestValid = true → s.tableValid = true →
    (∀ i ∈ is, isWrite i = true) →
    ∃ t u, runCommands (.reset :: is) s = .next t ∧ runCommands (.create :: is) s = .next u ∧
      t.crc = u.crc ∧ t.crc = foldSeq s.table s.bitrev s.init (is.flatMap dataBytes)

/-! ### Finalization unit (43_finalization.md) -/

/-- FinalValue is XOR; Serialize gives the high byte first when BIGEND is 1 and the low byte first otherwise; SwapMux
packs those two bytes with the first in bits 15:8 (R180). -/
def Obligations.FinalizationFunctions : Prop :=
  (∀ crc finxor : U16, finalValue crc finxor = crc ^^^ finxor) ∧
  ∀ (v : U16) (bigend : Bool), ∃ first second : U8,
    serialize v bigend = [first, second] ∧
    first.toNat = (if bigend then v.toNat / 2 ^ 8 else v.toNat % 2 ^ 8) ∧
    second.toNat = (if bigend then v.toNat % 2 ^ 8 else v.toNat / 2 ^ 8) ∧
    (swapMux v bigend).toNat = first.toNat * 2 ^ 8 + second.toNat

/-- SUM16 with a Digest answers CRC XOR FINXOR and writes no state (R181). -/
def Obligations.Sum16ReturnsFinalValue : Prop :=
  ∀ s : State, s.cfgValid = true → s.digestValid = true →
    exec .sum16 s = .next { s with responses := s.responses ++ [responseWord 0x00#8 (s.crc ^^^ s.finxor)] }

/-- SUMB with a Digest answers the two bytes of CRC XOR FINXOR, the first in DATA[15:8]: the high byte if BIGEND is 1,
else the low byte; it writes no state (R182; 20_memory.md R54). -/
def Obligations.SumbReturnsOrderedBytes : Prop :=
  ∀ s : State, s.cfgValid = true → s.digestValid = true → ∃ data : U16,
    exec .sumb s = .next { s with responses := s.responses ++ [responseWord 0x00#8 data] } ∧
    highByte data = (if s.bigend then highByte (s.crc ^^^ s.finxor) else lowByte (s.crc ^^^ s.finxor)) ∧
    lowByte data = (if s.bigend then lowByte (s.crc ^^^ s.finxor) else highByte (s.crc ^^^ s.finxor))

/-- BLKSZ answers 1 in every state and writes none (R183). -/
def Obligations.BlkszReturnsOne : Prop :=
  ∀ s : State, exec .blksz s = .next { s with responses := s.responses ++ [responseWord 0x00#8 0x0001#16] }

/-- The one-shot checksum: from any state with a Configuration loaded whose table, if built, is the built table,
CHECKSUM of any byte sequence runs to its end and its last answer is the fold of the bytes from INIT, XOR FINXOR; CRC
and DIGEST_VALID are those of a Digest fed the bytes (30_encoding.md R87; R184). -/
def Obligations.ChecksumReturnsOneShot : Prop :=
  ∀ (s : State) (bytes : List U8), s.inputs = [] → s.cfgValid = true → TableBuilt s →
    ∃ t rs, runCommands (checksumCommands bytes) s = .next t ∧
      t.responses = s.responses ++ rs ++ [responseWord 0x00#8 (foldOf s s.init bytes ^^^ s.finxor)] ∧
      t.crc = foldOf s s.init bytes ∧ t.digestValid = true

/-- Empty input: the checksum of no bytes is INIT XOR FINXOR, and SUM16 directly after CREATE answers it (R185). -/
def Obligations.EmptyInputChecksum : Prop :=
  (∀ s : State, checksum s [] = s.init ^^^ s.finxor) ∧
  ∀ s t : State, s.cfgValid = true → exec .create s = .next t →
    exec .sum16 t = .next { t with responses := t.responses ++ [responseWord 0x00#8 (s.init ^^^ s.finxor)] }

/-! ### Register read (44_status.md) -/

/-- STATUS bit by bit: CFG_VALID, TABLE_VALID, DIGEST_VALID, ERR in bits 0 to 3, zero in bits 7:4, ERRCODE in bits 15:8;
and MODE: BITREV in bit 0, BIGEND in bit 1, zero in bits 15:2 (10_state.md R34, R24). -/
def Obligations.StatusAndModeLayout : Prop :=
  ∀ s : State,
    ((statusView s).getLsbD 0 = s.cfgValid ∧ (statusView s).getLsbD 1 = s.tableValid ∧
      (statusView s).getLsbD 2 = s.digestValid ∧ (statusView s).getLsbD 3 = s.err ∧
      (statusView s).extractLsb' 4 4 = 0#4 ∧ (statusView s).extractLsb' 8 8 = s.errcode) ∧
    ((modeView s).getLsbD 0 = s.bitrev ∧ (modeView s).getLsbD 1 = s.bigend ∧ (modeView s).extractLsb' 2 14 = 0#14)

/-- RDST with what it needs answers the register its selector names and writes no state: STATUS in every state, POLY,
INIT, FINXOR and MODE with a Configuration, CRC with a Digest (R200, R201). -/
def Obligations.RdstReadsRegisters : Prop :=
  (∀ s : State, exec .rdstStatus s =
    .next { s with responses := s.responses ++ [responseWord 0x00#8 (statusView s)] }) ∧
  (∀ s : State, s.cfgValid = true →
    exec .rdstPoly s = .next { s with responses := s.responses ++ [responseWord 0x00#8 s.poly] } ∧
    exec .rdstInit s = .next { s with responses := s.responses ++ [responseWord 0x00#8 s.init] } ∧
    exec .rdstFinxor s = .next { s with responses := s.responses ++ [responseWord 0x00#8 s.finxor] } ∧
    exec .rdstMode s = .next { s with responses := s.responses ++ [responseWord 0x00#8 (modeView s)] }) ∧
  (∀ s : State, s.cfgValid = true → s.digestValid = true →
    exec .rdstCrc s = .next { s with responses := s.responses ++ [responseWord 0x00#8 s.crc] })

/-! ### Repetition, reconfiguration, several hosts -/

/-- Repeating a command that folds no byte, successful or not, leaves the state it left the first time, responses aside
(with what TABLE and CRC are left holding by CFG and CFGP, the model's choice, log entry 7);
and a SUM16, SUMB, RDST, RDTAB, REV16 or BLKSZ that succeeds leaves the state it found (20_memory.md R61). -/
def Obligations.RepeatingLeavesSameState : Prop :=
  (∀ (i : Instr) (s t u : State), dataBytes i = [] → exec i s = .next t → exec i t = .next u →
    u = { t with responses := u.responses }) ∧
  ∀ (i : Instr) (s t : State) (data : U16), writeClass i = .nothing → exec i s = .next t →
    t.responses = s.responses ++ [responseWord 0x00#8 data] → t = { s with responses := t.responses }

/-- Context switch: a stream in progress survives a reconfiguration if the host loads the same five values again and
then the saved register; every field but the responses is as it was (70_reset_and_hazards.md R262; 42_update_engine.md
R155). -/
def Obligations.SavedDigestResumes : Prop :=
  ∀ s t u v : State, s.cfgValid = true → s.tableValid = true → s.digestValid = true → TableBuilt s →
    ∀ (poly init finxor : U16) (bitrev bigend : Bool),
    exec (.cfg poly init finxor bitrev bigend) s = .next t →
    exec (.cfg s.poly s.init s.finxor s.bitrev s.bigend) t = .next u →
    exec (.loadcrc s.crc) u = .next v →
    v = { s with responses := v.responses }

/-- Several hosts: in the merged sequence each host's commands stand whole and in the host's own order (20_memory.md
R64). -/
def Obligations.HostsKeepTheirOrder : Prop :=
  ∀ (order : List Nat) (queues : List (List CommandWord)) (h : Nat),
    ((mergeHosts order queues).filter fun c => c.1 == h).map Prod.snd <+: queues.getD h []

/-- Several hosts: every interleaving of the hosts' command sequences is one the parameter HOST_INTERLEAVING admits
(20_memory.md R64). -/
def Obligations.EveryInterleavingIsAdmitted : Prop :=
  ∀ (queues : List (List CommandWord)) (merged : List (Nat × CommandWord)),
    (∀ h, (merged.filter fun c => c.1 == h).map Prod.snd = queues.getD h []) →
    mergeHosts (merged.map Prod.fst) queues = merged
end

