-- ==== Sys2Proof/Laws/Assembler.lean ====
section
/-! SUPPORT. The commands a line of assembler stands for are legal (30_encoding.md R81, R85 to R87). -/

namespace Sys2Proof.Machine

theorem writeCommand_wf {bytes : List U8} {i : Instr} (h : writeCommand bytes = some i) : i.wf = true := by
  unfold writeCommand at h
  split at h <;> cases h <;> rfl

theorem writesCommands_wf (bytes : List U8) : ∀ i ∈ writesCommands bytes, i.wf = true := by
  induction bytes using writesCommands.induct <;> simp_all [writesCommands, Instr.wf]

theorem checksumCommands_wf (bytes : List U8) : ∀ i ∈ checksumCommands bytes, i.wf = true := by
  have h := writesCommands_wf bytes
  simp only [checksumCommands, List.mem_append, List.mem_singleton]
  rintro i ((rfl | hi) | rfl)
  exacts [rfl, h i hi, rfl]

/-- Every command of every line is legal. -/
theorem lineCommands_wf {line : AsmLine} {is : List Instr} (h : lineCommands line = some is) :
    ∀ i ∈ is, i.wf = true := by
  cases line
  case cfgp name =>
    cases h
    cases name <;> decide
  case write bytes =>
    obtain ⟨i, hi, rfl⟩ := Option.map_eq_some_iff.1 h
    simpa using writeCommand_wf hi
  case rdst name =>
    cases h
    cases name <;> decide
  case rdstNumber n =>
    obtain ⟨name, -, rfl⟩ := Option.map_eq_some_iff.1 h
    cases name <;> decide
  case writes bytes =>
    cases h
    exact writesCommands_wf bytes
  case checksum bytes =>
    cases h
    exact checksumCommands_wf bytes
  all_goals
    cases h
    simp [Instr.wf]

end Sys2Proof.Machine
end

