-- ==== Sys2Proof/Laws/Decode.lean ====
section
/-! SUPPORT. The bits of a packed command word and of its fields, each said once, and what each decoding helper can
answer. -/

namespace Sys2Proof

/-- Every bit of a packed command word (30_encoding.md R70). -/
theorem getLsbD_packWord (opc f : U8) (p : BitVec 48) (i : Nat) :
    (packWord opc f p).getLsbD i =
      if i < 48 then p.getLsbD i else if i < 56 then f.getLsbD (i - 48) else opc.getLsbD (i - 56) := by
  have h : (packWord opc f p).getLsbD i = BitVec.getLsbD (w := 8 + 8 + 48) (opc ++ f ++ p) i := rfl
  rw [h, BitVec.getLsbD_append, BitVec.getLsbD_append]
  split
  · rfl
  · split <;> split <;> first | omega | simp [Nat.sub_sub]

@[simp] theorem opcodeField_packWord (opc f : U8) (p : BitVec 48) : opcodeField (packWord opc f p) = opc := by
  apply BitVec.eq_of_getLsbD_eq
  intro i hi
  simp [opcodeField, getLsbD_packWord, hi, show ¬56 + i < 48 by omega]

@[simp] theorem flagsField_packWord (opc f : U8) (p : BitVec 48) : flagsField (packWord opc f p) = f := by
  apply BitVec.eq_of_getLsbD_eq
  intro i hi
  simp [flagsField, getLsbD_packWord, hi, show 48 + i < 56 by omega]

@[simp] theorem payloadField_packWord (opc f : U8) (p : BitVec 48) : payloadField (packWord opc f p) = p := by
  apply BitVec.eq_of_getLsbD_eq
  intro i hi
  simp [payloadField, getLsbD_packWord, hi]

/-- Masking a packed word masks its three fields. -/
theorem packWord_and (o f o' f' : U8) (p p' : BitVec 48) :
    packWord o f p &&& packWord o' f' p' = packWord (o &&& o') (f &&& f') (p &&& p') := by
  apply BitVec.eq_of_getLsbD_eq
  intro i _
  rw [BitVec.getLsbD_and, getLsbD_packWord, getLsbD_packWord, getLsbD_packWord]
  split
  · simp
  · split <;> simp

/-- Every bit of a payload packed from A, B and C. -/
theorem getLsbD_packABC (a b c : U16) (i : Nat) :
    (packABC a b c).getLsbD i =
      if i < 16 then c.getLsbD i else if i < 32 then b.getLsbD (i - 16) else a.getLsbD (i - 32) := by
  have h : (packABC a b c).getLsbD i = BitVec.getLsbD (w := 16 + 16 + 16) (a ++ b ++ c) i := rfl
  rw [h, BitVec.getLsbD_append, BitVec.getLsbD_append]
  split
  · rfl
  · split <;> split <;> first | omega | simp [Nat.sub_sub]

/-- Every bit of a payload packed from six data bytes. -/
theorem getLsbD_packBytes (d0 d1 d2 d3 d4 d5 : U8) (i : Nat) :
    (packBytes d0 d1 d2 d3 d4 d5).getLsbD i =
      if i < 8 then d5.getLsbD i else if i < 16 then d4.getLsbD (i - 8) else
      if i < 24 then d3.getLsbD (i - 16) else if i < 32 then d2.getLsbD (i - 24) else
      if i < 40 then d1.getLsbD (i - 32) else d0.getLsbD (i - 40) := by
  have h : (packBytes d0 d1 d2 d3 d4 d5).getLsbD i =
      BitVec.getLsbD (w := 8 + 8 + 8 + 8 + 8 + 8) (d0 ++ d1 ++ d2 ++ d3 ++ d4 ++ d5) i := rfl
  rw [h]
  simp only [BitVec.getLsbD_append, Nat.sub_sub]
  split_ifs <;> first | omega | rfl

/-! Fields of a packed word. -/

@[simp] theorem fieldA_packABC (o f : U8) (a b c : U16) : fieldA (packWord o f (packABC a b c)) = a := by
  apply BitVec.eq_of_getLsbD_eq
  intro i hi
  simp only [fieldA, BitVec.getLsbD_extractLsb', getLsbD_packWord, getLsbD_packABC, hi, decide_true, Bool.true_and]
  split_ifs <;> first | omega | (congr 1; omega)

@[simp] theorem fieldB_packABC (o f : U8) (a b c : U16) : fieldB (packWord o f (packABC a b c)) = b := by
  apply BitVec.eq_of_getLsbD_eq
  intro i hi
  simp only [fieldB, BitVec.getLsbD_extractLsb', getLsbD_packWord, getLsbD_packABC, hi, decide_true, Bool.true_and]
  split_ifs <;> first | omega | (congr 1; omega)

@[simp] theorem fieldC_packABC (o f : U8) (a b c : U16) : fieldC (packWord o f (packABC a b c)) = c := by
  apply BitVec.eq_of_getLsbD_eq
  intro i hi
  simp only [fieldC, BitVec.getLsbD_extractLsb', getLsbD_packWord, getLsbD_packABC, hi, decide_true, Bool.true_and]
  split_ifs <;> first | omega | (congr 1; omega)

theorem dataByte_packBytes (o f d0 d1 d2 d3 d4 d5 : U8) :
    dataByte (packWord o f (packBytes d0 d1 d2 d3 d4 d5)) 0 = d0 ∧
    dataByte (packWord o f (packBytes d0 d1 d2 d3 d4 d5)) 1 = d1 ∧
    dataByte (packWord o f (packBytes d0 d1 d2 d3 d4 d5)) 2 = d2 ∧
    dataByte (packWord o f (packBytes d0 d1 d2 d3 d4 d5)) 3 = d3 ∧
    dataByte (packWord o f (packBytes d0 d1 d2 d3 d4 d5)) 4 = d4 ∧
    dataByte (packWord o f (packBytes d0 d1 d2 d3 d4 d5)) 5 = d5 := by
  refine ⟨?_, ?_, ?_, ?_, ?_, ?_⟩ <;> apply BitVec.eq_of_getLsbD_eq <;> intro i hi <;>
    simp only [dataByte, BitVec.getLsbD_extractLsb', getLsbD_packWord, getLsbD_packBytes, hi, decide_true,
      Bool.true_and] <;>
    split_ifs <;> first | omega | (congr 1; omega)

/-! A word is made of its fields. -/

theorem packWord_fields (w : CommandWord) : packWord (opcodeField w) (flagsField w) (payloadField w) = w := by
  apply BitVec.eq_of_getLsbD_eq
  intro i hi
  simp only [getLsbD_packWord, opcodeField, flagsField, payloadField, BitVec.getLsbD_extractLsb']
  split_ifs
  · simp_all
  · simp [show i - 48 < 8 by omega, show 48 + (i - 48) = i by omega]
  · simp [show i - 56 < 8 by omega, show 56 + (i - 56) = i by omega]

theorem packABC_fields (w : CommandWord) : packABC (fieldA w) (fieldB w) (fieldC w) = payloadField w := by
  apply BitVec.eq_of_getLsbD_eq
  intro i hi
  simp only [getLsbD_packABC, fieldA, fieldB, fieldC, payloadField, BitVec.getLsbD_extractLsb']
  split_ifs
  · simp_all
  · simp [show i - 16 < 16 by omega, show 16 + (i - 16) = i by omega, hi]
  · simp [show i - 32 < 16 by omega, show 32 + (i - 32) = i by omega, hi]

theorem packBytes_fields (w : CommandWord) :
    packBytes (dataByte w 0) (dataByte w 1) (dataByte w 2) (dataByte w 3) (dataByte w 4) (dataByte w 5) =
      payloadField w := by
  apply BitVec.eq_of_getLsbD_eq
  intro i hi
  simp only [getLsbD_packBytes, dataByte, payloadField, BitVec.getLsbD_extractLsb']
  split_ifs
  · simp_all
  · simp [show i - 8 < 8 by omega, show 8 + (i - 8) = i by omega, hi]
  · simp [show i - 16 < 8 by omega, show 16 + (i - 16) = i by omega, hi]
  · simp [show i - 24 < 8 by omega, show 24 + (i - 24) = i by omega, hi]
  · simp [show i - 32 < 8 by omega, show 32 + (i - 32) = i by omega, hi]
  · simp [show i - 40 < 8 by omega, show 40 + (i - 40) = i by omega, hi]

/-- The unused bytes of a WRITE word are zero when its low bits are (30_encoding.md R76). -/
theorem unusedBytesZero_iff (w : CommandWord) (k : Nat) :
    unusedBytesZero w k = true ↔ ∀ i < 48 - 8 * k, w.getLsbD i = false := by
  rw [unusedBytesZero, beq_iff_eq]
  constructor
  · intro h i hi
    simpa [hi] using congrArg (fun v => BitVec.getLsbD v i) h
  · intro h
    apply BitVec.eq_of_getLsbD_eq
    intro i hi
    simp [h i hi]

/-- A field check answers the command, or the word is reserved. -/
theorem unlessReserved_ok {b : Bool} {i j : Instr} :
    unlessReserved b i = .ok j ↔ b = true ∧ i = j := by
  cases b <;> simp [unlessReserved]

theorem unlessReserved_error {b : Bool} {i : Instr} {r : Reject} :
    unlessReserved b i = .error r ↔ b = false ∧ r = .reserved := by
  cases b <;> simp [unlessReserved, eq_comm]

/-! ### Packed words as numbers -/

theorem toNat_append {m n : Nat} (x : BitVec m) (y : BitVec n) : (x ++ y).toNat = x.toNat * 2 ^ n + y.toNat := by
  rw [BitVec.toNat_append, ← Nat.shiftLeft_add_eq_or_of_lt y.isLt, Nat.shiftLeft_eq]

theorem toNat_packWord (o f : U8) (p : BitVec 48) :
    (packWord o f p).toNat = o.toNat * 2 ^ 56 + f.toNat * 2 ^ 48 + p.toNat := by
  have h : (packWord o f p).toNat = (o ++ f ++ p : BitVec (8 + 8 + 48)).toNat := rfl
  rw [h, toNat_append, toNat_append]
  omega

theorem toNat_packABC (a b c : U16) :
    (packABC a b c).toNat = a.toNat * 2 ^ 32 + b.toNat * 2 ^ 16 + c.toNat := by
  have h : (packABC a b c).toNat = (a ++ b ++ c : BitVec (16 + 16 + 16)).toNat := rfl
  rw [h, toNat_append, toNat_append]
  omega

theorem toNat_packBytes (d0 d1 d2 d3 d4 d5 : U8) : (packBytes d0 d1 d2 d3 d4 d5).toNat =
    d0.toNat * 2 ^ 40 + d1.toNat * 2 ^ 32 + d2.toNat * 2 ^ 24 + d3.toNat * 2 ^ 16 + d4.toNat * 2 ^ 8 + d5.toNat := by
  have h : (packBytes d0 d1 d2 d3 d4 d5).toNat =
      (d0 ++ d1 ++ d2 ++ d3 ++ d4 ++ d5 : BitVec (8 + 8 + 8 + 8 + 8 + 8)).toNat := rfl
  rw [h, toNat_append, toNat_append, toNat_append, toNat_append, toNat_append]
  omega

theorem toNat_packModeFlags (bitrev bigend : Bool) :
    (packModeFlags bitrev bigend).toNat = 2 * bigend.toNat + bitrev.toNat := by
  cases bitrev <;> cases bigend <;> rfl

end Sys2Proof
end

