-- ==== Sys2Proof/Laws/State.lean ====
section
/-! SUPPORT. The state after each update, field by field, so that no proof unfolds a record update. -/

namespace Sys2Proof.Machine

/-! ### A response changes the responses only (00_scope.md R14). -/

@[simp] theorem respond_poly (st : U8) (data : U16) (s : State) :
    (respond st data s).poly = s.poly := rfl
@[simp] theorem respond_init (st : U8) (data : U16) (s : State) :
    (respond st data s).init = s.init := rfl
@[simp] theorem respond_finxor (st : U8) (data : U16) (s : State) :
    (respond st data s).finxor = s.finxor := rfl
@[simp] theorem respond_bitrev (st : U8) (data : U16) (s : State) :
    (respond st data s).bitrev = s.bitrev := rfl
@[simp] theorem respond_bigend (st : U8) (data : U16) (s : State) :
    (respond st data s).bigend = s.bigend := rfl
@[simp] theorem respond_cfgValid (st : U8) (data : U16) (s : State) :
    (respond st data s).cfgValid = s.cfgValid := rfl
@[simp] theorem respond_table (st : U8) (data : U16) (s : State) :
    (respond st data s).table = s.table := rfl
@[simp] theorem respond_tableValid (st : U8) (data : U16) (s : State) :
    (respond st data s).tableValid = s.tableValid := rfl
@[simp] theorem respond_crc (st : U8) (data : U16) (s : State) :
    (respond st data s).crc = s.crc := rfl
@[simp] theorem respond_digestValid (st : U8) (data : U16) (s : State) :
    (respond st data s).digestValid = s.digestValid := rfl
@[simp] theorem respond_err (st : U8) (data : U16) (s : State) :
    (respond st data s).err = s.err := rfl
@[simp] theorem respond_errcode (st : U8) (data : U16) (s : State) :
    (respond st data s).errcode = s.errcode := rfl
@[simp] theorem respond_inputs (st : U8) (data : U16) (s : State) :
    (respond st data s).inputs = s.inputs := rfl
@[simp] theorem respond_responses (st : U8) (data : U16) (s : State) :
    (respond st data s).responses = s.responses ++ [responseWord st data] := rfl

/-! ### A success response (00_scope.md R14). -/

@[simp] theorem respondOk_poly (data : U16) (s : State) :
    (respondOk data s).poly = s.poly := rfl
@[simp] theorem respondOk_init (data : U16) (s : State) :
    (respondOk data s).init = s.init := rfl
@[simp] theorem respondOk_finxor (data : U16) (s : State) :
    (respondOk data s).finxor = s.finxor := rfl
@[simp] theorem respondOk_bitrev (data : U16) (s : State) :
    (respondOk data s).bitrev = s.bitrev := rfl
@[simp] theorem respondOk_bigend (data : U16) (s : State) :
    (respondOk data s).bigend = s.bigend := rfl
@[simp] theorem respondOk_cfgValid (data : U16) (s : State) :
    (respondOk data s).cfgValid = s.cfgValid := rfl
@[simp] theorem respondOk_table (data : U16) (s : State) :
    (respondOk data s).table = s.table := rfl
@[simp] theorem respondOk_tableValid (data : U16) (s : State) :
    (respondOk data s).tableValid = s.tableValid := rfl
@[simp] theorem respondOk_crc (data : U16) (s : State) :
    (respondOk data s).crc = s.crc := rfl
@[simp] theorem respondOk_digestValid (data : U16) (s : State) :
    (respondOk data s).digestValid = s.digestValid := rfl
@[simp] theorem respondOk_err (data : U16) (s : State) :
    (respondOk data s).err = s.err := rfl
@[simp] theorem respondOk_errcode (data : U16) (s : State) :
    (respondOk data s).errcode = s.errcode := rfl
@[simp] theorem respondOk_inputs (data : U16) (s : State) :
    (respondOk data s).inputs = s.inputs := rfl
@[simp] theorem respondOk_responses (data : U16) (s : State) :
    (respondOk data s).responses = s.responses ++ [responseWord 0x00#8 data] := rfl

/-! ### A failure changes ERR, ERRCODE and the responses only (60_exceptions.md R222). -/

@[simp] theorem fail_poly (e : ErrorCode) (s : State) :
    (fail e s).poly = s.poly := rfl
@[simp] theorem fail_init (e : ErrorCode) (s : State) :
    (fail e s).init = s.init := rfl
@[simp] theorem fail_finxor (e : ErrorCode) (s : State) :
    (fail e s).finxor = s.finxor := rfl
@[simp] theorem fail_bitrev (e : ErrorCode) (s : State) :
    (fail e s).bitrev = s.bitrev := rfl
@[simp] theorem fail_bigend (e : ErrorCode) (s : State) :
    (fail e s).bigend = s.bigend := rfl
@[simp] theorem fail_cfgValid (e : ErrorCode) (s : State) :
    (fail e s).cfgValid = s.cfgValid := rfl
@[simp] theorem fail_table (e : ErrorCode) (s : State) :
    (fail e s).table = s.table := rfl
@[simp] theorem fail_tableValid (e : ErrorCode) (s : State) :
    (fail e s).tableValid = s.tableValid := rfl
@[simp] theorem fail_crc (e : ErrorCode) (s : State) :
    (fail e s).crc = s.crc := rfl
@[simp] theorem fail_digestValid (e : ErrorCode) (s : State) :
    (fail e s).digestValid = s.digestValid := rfl
@[simp] theorem fail_err (e : ErrorCode) (s : State) :
    (fail e s).err = true := rfl
@[simp] theorem fail_errcode (e : ErrorCode) (s : State) :
    (fail e s).errcode = if s.err then s.errcode else errorStatus e := rfl
@[simp] theorem fail_inputs (e : ErrorCode) (s : State) :
    (fail e s).inputs = s.inputs := rfl
@[simp] theorem fail_responses (e : ErrorCode) (s : State) :
    (fail e s).responses = s.responses ++ [responseWord (errorStatus e) 0x0000#16] := rfl

/-! ### A new Configuration (40_configuration.md R104). -/

@[simp] theorem newConfiguration_poly (a : Attributes) (s : State) :
    (newConfiguration a s).poly = a.poly := rfl
@[simp] theorem newConfiguration_init (a : Attributes) (s : State) :
    (newConfiguration a s).init = a.init := rfl
@[simp] theorem newConfiguration_finxor (a : Attributes) (s : State) :
    (newConfiguration a s).finxor = a.finxor := rfl
@[simp] theorem newConfiguration_bitrev (a : Attributes) (s : State) :
    (newConfiguration a s).bitrev = a.bitrev := rfl
@[simp] theorem newConfiguration_bigend (a : Attributes) (s : State) :
    (newConfiguration a s).bigend = a.bigend := rfl
@[simp] theorem newConfiguration_cfgValid (a : Attributes) (s : State) :
    (newConfiguration a s).cfgValid = true := rfl
@[simp] theorem newConfiguration_table (a : Attributes) (s : State) :
    (newConfiguration a s).table = s.table := rfl
@[simp] theorem newConfiguration_tableValid (a : Attributes) (s : State) :
    (newConfiguration a s).tableValid = false := rfl
@[simp] theorem newConfiguration_crc (a : Attributes) (s : State) :
    (newConfiguration a s).crc = s.crc := rfl
@[simp] theorem newConfiguration_digestValid (a : Attributes) (s : State) :
    (newConfiguration a s).digestValid = false := rfl
@[simp] theorem newConfiguration_err (a : Attributes) (s : State) :
    (newConfiguration a s).err = s.err := rfl
@[simp] theorem newConfiguration_errcode (a : Attributes) (s : State) :
    (newConfiguration a s).errcode = s.errcode := rfl
@[simp] theorem newConfiguration_inputs (a : Attributes) (s : State) :
    (newConfiguration a s).inputs = s.inputs := rfl
@[simp] theorem newConfiguration_responses (a : Attributes) (s : State) :
    (newConfiguration a s).responses = s.responses := rfl

/-! ### The table build (41_table_generator.md R124). -/

@[simp] theorem tableBuild_poly (s : State) :
    (tableBuild s).poly = s.poly := rfl
@[simp] theorem tableBuild_init (s : State) :
    (tableBuild s).init = s.init := rfl
@[simp] theorem tableBuild_finxor (s : State) :
    (tableBuild s).finxor = s.finxor := rfl
@[simp] theorem tableBuild_bitrev (s : State) :
    (tableBuild s).bitrev = s.bitrev := rfl
@[simp] theorem tableBuild_bigend (s : State) :
    (tableBuild s).bigend = s.bigend := rfl
@[simp] theorem tableBuild_cfgValid (s : State) :
    (tableBuild s).cfgValid = s.cfgValid := rfl
@[simp] theorem tableBuild_table (s : State) :
    (tableBuild s).table = buildTable s.bitrev s.poly := rfl
@[simp] theorem tableBuild_tableValid (s : State) :
    (tableBuild s).tableValid = true := rfl
@[simp] theorem tableBuild_crc (s : State) :
    (tableBuild s).crc = s.crc := rfl
@[simp] theorem tableBuild_digestValid (s : State) :
    (tableBuild s).digestValid = s.digestValid := rfl
@[simp] theorem tableBuild_err (s : State) :
    (tableBuild s).err = s.err := rfl
@[simp] theorem tableBuild_errcode (s : State) :
    (tableBuild s).errcode = s.errcode := rfl
@[simp] theorem tableBuild_inputs (s : State) :
    (tableBuild s).inputs = s.inputs := rfl
@[simp] theorem tableBuild_responses (s : State) :
    (tableBuild s).responses = s.responses := rfl

/-! ### The hardware reset (70_reset_and_hazards.md R250). -/

@[simp] theorem hardwareReset_poly (s : State) :
    (hardwareReset s).poly = State.reset.poly := rfl
@[simp] theorem hardwareReset_init (s : State) :
    (hardwareReset s).init = State.reset.init := rfl
@[simp] theorem hardwareReset_finxor (s : State) :
    (hardwareReset s).finxor = State.reset.finxor := rfl
@[simp] theorem hardwareReset_bitrev (s : State) :
    (hardwareReset s).bitrev = State.reset.bitrev := rfl
@[simp] theorem hardwareReset_bigend (s : State) :
    (hardwareReset s).bigend = State.reset.bigend := rfl
@[simp] theorem hardwareReset_cfgValid (s : State) :
    (hardwareReset s).cfgValid = State.reset.cfgValid := rfl
@[simp] theorem hardwareReset_table (s : State) :
    (hardwareReset s).table = State.reset.table := rfl
@[simp] theorem hardwareReset_tableValid (s : State) :
    (hardwareReset s).tableValid = State.reset.tableValid := rfl
@[simp] theorem hardwareReset_crc (s : State) :
    (hardwareReset s).crc = State.reset.crc := rfl
@[simp] theorem hardwareReset_digestValid (s : State) :
    (hardwareReset s).digestValid = State.reset.digestValid := rfl
@[simp] theorem hardwareReset_err (s : State) :
    (hardwareReset s).err = State.reset.err := rfl
@[simp] theorem hardwareReset_errcode (s : State) :
    (hardwareReset s).errcode = State.reset.errcode := rfl
@[simp] theorem hardwareReset_inputs (s : State) :
    (hardwareReset s).inputs = s.inputs := rfl
@[simp] theorem hardwareReset_responses (s : State) :
    (hardwareReset s).responses = s.responses := rfl

/-! ### Delivering commands changes the inputs only. -/

@[simp] theorem deliver_poly (ws : List CommandWord) (s : State) :
    (deliver ws s).poly = s.poly := rfl
@[simp] theorem deliver_init (ws : List CommandWord) (s : State) :
    (deliver ws s).init = s.init := rfl
@[simp] theorem deliver_finxor (ws : List CommandWord) (s : State) :
    (deliver ws s).finxor = s.finxor := rfl
@[simp] theorem deliver_bitrev (ws : List CommandWord) (s : State) :
    (deliver ws s).bitrev = s.bitrev := rfl
@[simp] theorem deliver_bigend (ws : List CommandWord) (s : State) :
    (deliver ws s).bigend = s.bigend := rfl
@[simp] theorem deliver_cfgValid (ws : List CommandWord) (s : State) :
    (deliver ws s).cfgValid = s.cfgValid := rfl
@[simp] theorem deliver_table (ws : List CommandWord) (s : State) :
    (deliver ws s).table = s.table := rfl
@[simp] theorem deliver_tableValid (ws : List CommandWord) (s : State) :
    (deliver ws s).tableValid = s.tableValid := rfl
@[simp] theorem deliver_crc (ws : List CommandWord) (s : State) :
    (deliver ws s).crc = s.crc := rfl
@[simp] theorem deliver_digestValid (ws : List CommandWord) (s : State) :
    (deliver ws s).digestValid = s.digestValid := rfl
@[simp] theorem deliver_err (ws : List CommandWord) (s : State) :
    (deliver ws s).err = s.err := rfl
@[simp] theorem deliver_errcode (ws : List CommandWord) (s : State) :
    (deliver ws s).errcode = s.errcode := rfl
@[simp] theorem deliver_inputs (ws : List CommandWord) (s : State) :
    (deliver ws s).inputs = s.inputs ++ ws.map PortInput.command := rfl
@[simp] theorem deliver_responses (ws : List CommandWord) (s : State) :
    (deliver ws s).responses = s.responses := rfl

end Sys2Proof.Machine
end

