-- ==== Sys2Proof/Laws/Ops.lean ====
section
/-! SUPPORT. What each shared operation does, said once: responses, table accesses, the checks before a command, the table
build, the next input. -/

namespace Sys2Proof.Machine

/-! ### Response words (30_encoding.md R71) -/

/-- Every bit of a response word. -/
theorem getLsbD_responseWord (st : U8) (data : U16) (i : Nat) :
    (responseWord st data).getLsbD i =
      if i < 16 then data.getLsbD i else if i < 24 then false else st.getLsbD (i - 24) := by
  have h : (responseWord st data).getLsbD i = BitVec.getLsbD (w := 8 + 8 + 16) (st ++ 0x00#8 ++ data) i := rfl
  rw [h, BitVec.getLsbD_append, BitVec.getLsbD_append]
  split
  · rfl
  · split <;> split <;> first | omega | simp [Nat.sub_sub]

@[simp] theorem responseStatus_responseWord (st : U8) (data : U16) :
    responseStatus (responseWord st data) = st := by
  apply BitVec.eq_of_getLsbD_eq
  intro i hi
  simp [responseStatus, getLsbD_responseWord, hi, show ¬24 + i < 16 by omega]

@[simp] theorem responseData_responseWord (st : U8) (data : U16) :
    responseData (responseWord st data) = data := by
  apply BitVec.eq_of_getLsbD_eq
  intro i hi
  simp [responseData, getLsbD_responseWord, hi]

theorem responseWord_reserved (st : U8) (data : U16) :
    (responseWord st data).extractLsb' 16 8 = 0#8 := by
  apply BitVec.eq_of_getLsbD_eq
  intro i hi
  simp [getLsbD_responseWord, show 16 + i < 24 by omega]

/-! ### The table (20_memory.md R50 to R52) -/

theorem tabRead_tabWrite_same (t : Vector U16 Config.tableEntries) (i : U8) (v : U16) :
    tabRead (tabWrite i v t) i = v := by
  simp [tabRead, tabWrite]

theorem tabRead_tabWrite_other (t : Vector U16 Config.tableEntries) {i j : U8} (v : U16) (h : i ≠ j) :
    tabRead (tabWrite i v t) j = tabRead t j := by
  have : i.toNat ≠ j.toNat := fun e => h (BitVec.eq_of_toNat_eq e)
  simp [tabRead, tabWrite, this]

/-- Two tables with the same entries are the same data: a table has one form only. -/
theorem table_ext {t u : Vector U16 Config.tableEntries} (h : ∀ i : U8, tabRead t i = tabRead u i) : t = u := by
  apply Vector.ext
  intro i hi
  simpa [tabRead, Nat.mod_eq_of_lt (show i < 256 from hi)] using h (BitVec.ofNat 8 i)

@[simp] theorem tabRead_buildTable (bitrev : Bool) (poly : U16) (i : U8) :
    tabRead (buildTable bitrev poly) i = buildEntry bitrev poly i := by
  simp [tabRead, buildTable]

/-! ### Checks before a command (60_exceptions.md R221, R223) -/

theorem missing_nothing (s : State) : missing .nothing s = none := rfl

theorem missing_config (s : State) :
    missing .config s = if s.cfgValid then none else some .noCfg := rfl

theorem missing_table (s : State) :
    missing .table s = if s.cfgValid then (if s.tableValid then none else some .noTab) else some .noCfg := rfl

theorem missing_digest (s : State) :
    missing .digest s = if s.cfgValid then (if s.digestValid then none else some .noDig) else some .noCfg := rfl

theorem perform_of_none {n : Need} {f : State → State} {s : State} (h : missing n s = none) :
    perform n f s = .next (f s) := by
  simp [perform, h]

theorem perform_of_some {n : Need} {f : State → State} {s : State} {e : ErrorCode} (h : missing n s = some e) :
    perform n f s = .next (fail e s) := by
  simp [perform, h]

/-- All that a command can do: its effect if no check fails, else the failure of the first that does. -/
theorem perform_cases {n : Need} {f : State → State} {s t : State} (h : perform n f s = .next t) :
    (missing n s = none ∧ t = f s) ∨ ∃ e, missing n s = some e ∧ t = fail e s := by
  unfold perform at h
  split at h
  · next hn => exact .inl ⟨hn, by cases h; rfl⟩
  · next e he => exact .inr ⟨e, he, by cases h; rfl⟩

/-! ### The table build (41_table_generator.md R124) -/

theorem ensureTable_of_valid {s : State} (h : s.tableValid = true) : ensureTable s = s := by
  simp [ensureTable, h]

theorem ensureTable_of_not_valid {s : State} (h : s.tableValid = false) : ensureTable s = tableBuild s := by
  simp [ensureTable, h]

@[simp] theorem ensureTable_tableValid (s : State) : (ensureTable s).tableValid = true := by
  unfold ensureTable
  split <;> simp_all

theorem ensureTable_table (s : State) :
    (ensureTable s).table = if s.tableValid then s.table else buildTable s.bitrev s.poly := by
  unfold ensureTable
  split <;> simp_all

/-- Beside TABLE and TABLE_VALID, ensuring the table changes nothing. -/
theorem ensureTable_eq (s : State) :
    ensureTable s = { s with table := (ensureTable s).table, tableValid := true } := by
  unfold ensureTable
  split
  · next h => cases s; simp_all
  · rfl

/-! ### Inputs -/

theorem nextInput_nil {s : State} (h : s.inputs = []) : nextInput s = none := by
  simp [nextInput, h]

theorem nextInput_cons {s : State} {x : PortInput} {rest : List PortInput} (h : s.inputs = x :: rest) :
    nextInput s = some (x, { s with inputs := rest }) := by
  simp [nextInput, h]

end Sys2Proof.Machine
end

