-- ==== Sys2Proof/Laws/Exec.lean ====
section
/-! SUPPORT. What a command can do, said once: `exec_eq` gives every legal command as its needs, its effect and the DATA of
its response. -/

namespace Sys2Proof.Machine

/-- What a command needs (60_exceptions.md R221). -/
def needOf : Instr → Need
  | .cfg _ _ _ _ _ | .cfgp _ | .blksz | .rev16 _ | .rdstStatus => .nothing
  | .ensure | .create | .loadcrc _ | .rdstPoly | .rdstInit | .rdstFinxor | .rdstMode => .config
  | .rdtab _ => .table
  | .reset | .write0 | .write1 _ | .write2 _ _ | .write3 _ _ _ | .write4 _ _ _ _ | .write5 _ _ _ _ _
  | .write6 _ _ _ _ _ _ | .sum16 | .sumb | .rdstCrc => .digest

/-- The state a command that succeeds leaves, its response aside. -/
def effectOf (i : Instr) (s : State) : State :=
  match i with
  | .cfg poly init finxor bitrev bigend => newConfiguration ⟨poly, bitrev, init, finxor, bigend⟩ s
  | .cfgp sel => match preset sel with
    | some a => newConfiguration a s
    | none => s
  | .ensure => ensureTable s
  | .create => startDigest s.init s
  | .loadcrc imm => startDigest imm s
  | .reset => { s with crc := s.init }
  | .write0 | .write1 _ | .write2 _ _ | .write3 _ _ _ | .write4 _ _ _ _ | .write5 _ _ _ _ _
  | .write6 _ _ _ _ _ _ => { s with crc := foldSeq s.table s.bitrev s.crc (dataBytes i) }
  | .sum16 | .sumb | .blksz | .rev16 _ | .rdtab _ | .rdstStatus | .rdstPoly | .rdstInit | .rdstFinxor | .rdstMode
  | .rdstCrc => s

/-- The DATA of the response of a command that succeeds. -/
def dataOf (i : Instr) (s : State) : U16 :=
  match i with
  | .cfg _ _ _ _ _ | .cfgp _ | .create | .loadcrc _ | .reset => 0x0000#16
  | .ensure => zextBit (ensureBuilds s)
  | .write0 | .write1 _ | .write2 _ _ | .write3 _ _ _ | .write4 _ _ _ _ | .write5 _ _ _ _ _
  | .write6 _ _ _ _ _ _ => byteCount (dataBytes i)
  | .sum16 => finalValue s.crc s.finxor
  | .sumb => swapMux (finalValue s.crc s.finxor) s.bigend
  | .blksz => blockSize
  | .rev16 imm => rev16 imm
  | .rdtab idx => tabRead s.table idx
  | .rdstStatus => statusView s
  | .rdstPoly => s.poly
  | .rdstInit => s.init
  | .rdstFinxor => s.finxor
  | .rdstMode => modeView s
  | .rdstCrc => s.crc

/-- A legal preset number has a tuple (40_configuration.md R101). -/
theorem preset_of_legal {sel : U8} (h : legalPreset sel = true) : ∃ a, preset sel = some a := by
  have h4 : sel.toNat < 4 := by simpa [legalPreset] using h
  obtain e | e | e | e : sel.toNat = 0 ∨ sel.toNat = 1 ∨ sel.toNat = 2 ∨ sel.toNat = 3 := by omega
  all_goals exact ⟨_, by simp only [preset, e]; rfl⟩

/-- A reserved preset number has none (30_encoding.md R81). -/
theorem preset_of_reserved {sel : U8} (h : legalPreset sel = false) : preset sel = none := by
  have h4 : 4 ≤ sel.toNat := by simpa [legalPreset] using h
  unfold preset
  split <;> first | omega | rfl

/-- Every legal command is its checks, then its effect with its response. -/
theorem exec_eq {i : Instr} (h : i.wf = true) (s : State) :
    exec i s = perform (needOf i) (fun s => respondOk (dataOf i s) (effectOf i s)) s := by
  cases i
  case cfgp sel =>
    obtain ⟨a, ha⟩ := preset_of_legal h
    simp [exec, execCfgp, needOf, dataOf, effectOf, ha]
  all_goals rfl

/-- A CFGP with a reserved preset number fails E_RSVD (30_encoding.md R81). -/
theorem exec_reserved {i : Instr} (h : i.wf = false) (s : State) : exec i s = .next (fail .rsvd s) := by
  cases i
  case cfgp sel => simp [exec, execCfgp, preset_of_reserved h]
  all_goals cases h

/-- All that a command can do: fail with one of the errors, or succeed with its effect and its response. -/
theorem exec_cases {i : Instr} {s t : State} (h : exec i s = .next t) :
    (∃ e, t = fail e s) ∨
      (i.wf = true ∧ missing (needOf i) s = none ∧ t = respondOk (dataOf i s) (effectOf i s)) := by
  cases hw : i.wf
  · rw [exec_reserved hw] at h
    exact .inl ⟨.rsvd, by cases h; rfl⟩
  · rw [exec_eq hw] at h
    obtain ⟨hm, ht⟩ | ⟨e, -, ht⟩ := perform_cases h
    · exact .inr ⟨rfl, hm, ht⟩
    · exact .inl ⟨e, ht⟩

/-! No effect touches the error state, the inputs or the responses. -/

@[simp] theorem effectOf_err (i : Instr) (s : State) : (effectOf i s).err = s.err := by
  cases i <;> simp only [effectOf, startDigest, markDigest]
  case cfgp => split <;> rfl
  all_goals first | rfl | (rw [ensureTable_eq])

@[simp] theorem effectOf_errcode (i : Instr) (s : State) : (effectOf i s).errcode = s.errcode := by
  cases i <;> simp only [effectOf, startDigest, markDigest]
  case cfgp => split <;> rfl
  all_goals first | rfl | (rw [ensureTable_eq])

@[simp] theorem effectOf_inputs (i : Instr) (s : State) : (effectOf i s).inputs = s.inputs := by
  cases i <;> simp only [effectOf, startDigest, markDigest]
  case cfgp => split <;> rfl
  all_goals first | rfl | (rw [ensureTable_eq])

@[simp] theorem effectOf_responses (i : Instr) (s : State) : (effectOf i s).responses = s.responses := by
  cases i <;> simp only [effectOf, startDigest, markDigest]
  case cfgp => split <;> rfl
  all_goals first | rfl | (rw [ensureTable_eq])

/-- A command always answers a next state: the block has no fault and no refusal of its own. -/
theorem exec_answers (i : Instr) (s : State) : ∃ t, exec i s = .next t := by
  cases hw : i.wf
  · exact ⟨_, exec_reserved hw s⟩
  · rw [exec_eq hw, perform]
    split <;> exact ⟨_, rfl⟩

/-- All that a step can do: hold the state, reset, run a decoded command, or fail on a word that is no command. -/
theorem step_cases {s t : State} (h : step s = .next t) :
    (s.inputs = [] ∧ t = s) ∨
    (∃ a rest, s.inputs = .hardwareReset a :: rest ∧ t = hardwareReset { s with inputs := rest }) ∨
    (∃ w rest i, s.inputs = .command w :: rest ∧ decode w = .ok i ∧ exec i { s with inputs := rest } = .next t) ∨
    (∃ w rest r, s.inputs = .command w :: rest ∧ decode w = .error r ∧
      t = fail (rejectError r) { s with inputs := rest }) := by
  match hs : s.inputs with
  | [] =>
    rw [step, nextInput_nil hs] at h
    cases h
    exact .inl ⟨rfl, rfl⟩
  | .hardwareReset a :: rest =>
    rw [step, nextInput_cons hs] at h
    cases h
    exact .inr (.inl ⟨a, rest, rfl, rfl⟩)
  | .command w :: rest =>
    rw [step, nextInput_cons hs] at h
    cases hd : decode w with
    | ok i =>
      simp only [hd] at h
      exact .inr (.inr (.inl ⟨w, rest, i, rfl, hd, h⟩))
    | error r =>
      simp only [hd] at h
      cases h
      exact .inr (.inr (.inr ⟨w, rest, r, rfl, hd, rfl⟩))

end Sys2Proof.Machine
end

