-- ==== Sys2Proof/Laws/Operands.lean ====
section
/-! SUPPORT. The bits of the operand forms: bytes of a register, zero extension, joined bytes, reversed bits. -/

namespace Sys2Proof.Machine

theorem getLsbD_lowByte (r : U16) (i : Nat) : (lowByte r).getLsbD i = (decide (i < 8) && r.getLsbD i) := by
  simp only [lowByte, BitVec.getLsbD_extractLsb', Nat.zero_add]

theorem getLsbD_highByte (r : U16) (i : Nat) : (highByte r).getLsbD i = (decide (i < 8) && r.getLsbD (8 + i)) := by
  simp only [highByte, BitVec.getLsbD_extractLsb']

theorem getLsbD_zext16 (b : U8) (i : Nat) : (zext16 b).getLsbD i = (decide (i < 16) && b.getLsbD i) := by
  simp only [zext16, BitVec.getLsbD_setWidth]

theorem getLsbD_joinBytes (hi lo : U8) (i : Nat) :
    (joinBytes hi lo).getLsbD i = if i < 8 then lo.getLsbD i else hi.getLsbD (i - 8) :=
  BitVec.getLsbD_append (x := hi) (y := lo)

theorem getLsbD_rev16 (v : U16) (i : Nat) : (rev16 v).getLsbD i = (decide (i < 16) && v.getLsbD (15 - i)) := by
  rw [rev16, BitVec.getLsbD_reverse, BitVec.getMsbD_eq_getLsbD]

theorem toNat_joinBytes (hi lo : U8) : (joinBytes hi lo).toNat = hi.toNat * 2 ^ 8 + lo.toNat := by
  have h : (joinBytes hi lo).toNat = BitVec.toNat (hi ++ lo) := rfl
  rw [h, BitVec.toNat_append, ← Nat.shiftLeft_add_eq_or_of_lt lo.isLt, Nat.shiftLeft_eq]

theorem toNat_lowByte (r : U16) : (lowByte r).toNat = r.toNat % 2 ^ 8 := by
  simp [lowByte]

theorem toNat_highByte (r : U16) : (highByte r).toNat = r.toNat / 2 ^ 8 := by
  have := r.isLt
  simp only [highByte, BitVec.extractLsb'_toNat, Nat.shiftRight_eq_div_pow]
  omega

/-- A register is its two bytes. -/
theorem joinBytes_bytes (r : U16) : joinBytes (highByte r) (lowByte r) = r := by
  apply BitVec.eq_of_toNat_eq
  rw [toNat_joinBytes, toNat_lowByte, toNat_highByte]
  omega

end Sys2Proof.Machine
end

