-- ==== Sys2Proof/Laws/PerInstr.lean ====
section
/-! SUPPORT. A family of statements made per instruction: the encoding of a legal command lies in its row of the match and
mask table (30_encoding.md R79). -/

namespace Sys2Proof

/-- Masking a payload of three fields masks each. -/
theorem packABC_and (a b c a' b' c' : U16) :
    packABC a b c &&& packABC a' b' c' = packABC (a &&& a') (b &&& b') (c &&& c') := by
  apply BitVec.eq_of_getLsbD_eq
  intro i _
  rw [BitVec.getLsbD_and, getLsbD_packABC, getLsbD_packABC, getLsbD_packABC]
  split_ifs <;> simp

/-- Masking a payload of six bytes masks each. -/
theorem packBytes_and (d0 d1 d2 d3 d4 d5 e0 e1 e2 e3 e4 e5 : U8) :
    packBytes d0 d1 d2 d3 d4 d5 &&& packBytes e0 e1 e2 e3 e4 e5 =
      packBytes (d0 &&& e0) (d1 &&& e1) (d2 &&& e2) (d3 &&& e3) (d4 &&& e4) (d5 &&& e5) := by
  apply BitVec.eq_of_getLsbD_eq
  intro i _
  rw [BitVec.getLsbD_and, getLsbD_packBytes, getLsbD_packBytes, getLsbD_packBytes]
  split_ifs <;> simp

/-- A packed word lies in a row if its fields, masked, are the row's. -/
theorem admits_packWord {r : OpcodeRow} {o f mo mf po pf : U8} {p mp pp : BitVec 48}
    (hm : r.mask = packWord mo mf mp) (hp : r.pattern = packWord po pf pp)
    (h : o &&& mo = po ∧ f &&& mf = pf ∧ p &&& mp = pp) : r.admits (packWord o f p) = true := by
  obtain ⟨h1, h2, h3⟩ := h
  simp [OpcodeRow.admits, hm, hp, packWord_and, h1, h2, h3]

namespace Laws.EncodeInRow

/-- The encoding of a legal command lies in the command's row of the match and mask table (30_encoding.md R79). -/
def Statement (i : Instr) : Prop := i.wf = true → (opcodeRow i).admits (encode i) = true

theorem cfg (poly init finxor : U16) (bitrev bigend : Bool) : Statement (.cfg poly init finxor bitrev bigend) :=
  fun _ => admits_packWord (mo := 0xFF#8) (mf := 0xFC#8) (mp := 0#48) (po := 0x01#8) (pf := 0#8) (pp := 0#48)
    rfl rfl ⟨by decide, by cases bitrev <;> cases bigend <;> decide, by simp⟩

theorem cfgp (sel : U8) : Statement (.cfgp sel) := by
  intro h
  have h4 : sel.toNat < 4 := by simpa [Instr.wf, legalPreset] using h
  refine admits_packWord (mo := 0xFF#8) (mf := 0xFC#8) (mp := 0xFFFFFFFFFFFF#48) (po := 0x02#8) (pf := 0#8)
    (pp := 0#48) rfl rfl ⟨by decide, ?_, by decide⟩
  obtain e | e | e | e : sel = 0#8 ∨ sel = 1#8 ∨ sel = 2#8 ∨ sel = 3#8 := by
    simp only [BitVec.toNat_eq, BitVec.toNat_ofNat]
    omega
  all_goals subst e; decide

theorem ensure : Statement .ensure := fun _ => by decide

theorem create : Statement .create := fun _ => by decide

theorem loadcrc (imm : U16) : Statement (.loadcrc imm) :=
  fun _ => admits_packWord (mo := 0xFF#8) (mf := 0xFF#8) (mp := packABC 0xFFFF#16 0xFFFF#16 0#16) (po := 0x05#8)
    (pf := 0#8) (pp := packABC 0#16 0#16 0#16) rfl rfl
    ⟨by decide, by decide, by rw [packABC_and]; simp⟩

theorem reset : Statement .reset := fun _ => by decide

theorem write0 : Statement .write0 := fun _ => by decide

theorem write1 (d0 : U8) : Statement (.write1 d0) :=
  fun _ => admits_packWord (mo := 0xFF#8) (mf := 0xFF#8) (mp := packBytes 0#8 0xFF#8 0xFF#8 0xFF#8 0xFF#8 0xFF#8)
    (po := 0x07#8) (pf := 1#8) (pp := packBytes 0#8 0#8 0#8 0#8 0#8 0#8) rfl rfl
    ⟨by decide, by decide, by rw [packBytes_and]; simp⟩

theorem write2 (d0 d1 : U8) : Statement (.write2 d0 d1) :=
  fun _ => admits_packWord (mo := 0xFF#8) (mf := 0xFF#8) (mp := packBytes 0#8 0#8 0xFF#8 0xFF#8 0xFF#8 0xFF#8)
    (po := 0x07#8) (pf := 2#8) (pp := packBytes 0#8 0#8 0#8 0#8 0#8 0#8) rfl rfl
    ⟨by decide, by decide, by rw [packBytes_and]; simp⟩

theorem write3 (d0 d1 d2 : U8) : Statement (.write3 d0 d1 d2) :=
  fun _ => admits_packWord (mo := 0xFF#8) (mf := 0xFF#8) (mp := packBytes 0#8 0#8 0#8 0xFF#8 0xFF#8 0xFF#8)
    (po := 0x07#8) (pf := 3#8) (pp := packBytes 0#8 0#8 0#8 0#8 0#8 0#8) rfl rfl
    ⟨by decide, by decide, by rw [packBytes_and]; simp⟩

theorem write4 (d0 d1 d2 d3 : U8) : Statement (.write4 d0 d1 d2 d3) :=
  fun _ => admits_packWord (mo := 0xFF#8) (mf := 0xFF#8) (mp := packBytes 0#8 0#8 0#8 0#8 0xFF#8 0xFF#8)
    (po := 0x07#8) (pf := 4#8) (pp := packBytes 0#8 0#8 0#8 0#8 0#8 0#8) rfl rfl
    ⟨by decide, by decide, by rw [packBytes_and]; simp⟩

theorem write5 (d0 d1 d2 d3 d4 : U8) : Statement (.write5 d0 d1 d2 d3 d4) :=
  fun _ => admits_packWord (mo := 0xFF#8) (mf := 0xFF#8) (mp := packBytes 0#8 0#8 0#8 0#8 0#8 0xFF#8)
    (po := 0x07#8) (pf := 5#8) (pp := packBytes 0#8 0#8 0#8 0#8 0#8 0#8) rfl rfl
    ⟨by decide, by decide, by rw [packBytes_and]; simp⟩

theorem write6 (d0 d1 d2 d3 d4 d5 : U8) : Statement (.write6 d0 d1 d2 d3 d4 d5) :=
  fun _ => admits_packWord (mo := 0xFF#8) (mf := 0xFF#8) (mp := 0#48) (po := 0x07#8) (pf := 6#8) (pp := 0#48)
    rfl rfl ⟨by decide, by decide, by simp⟩

theorem sum16 : Statement .sum16 := fun _ => by decide

theorem sumb : Statement .sumb := fun _ => by decide

theorem blksz : Statement .blksz := fun _ => by decide

theorem rev16 (imm : U16) : Statement (.rev16 imm) :=
  fun _ => admits_packWord (mo := 0xFF#8) (mf := 0xFF#8) (mp := packABC 0xFFFF#16 0xFFFF#16 0#16) (po := 0x0B#8)
    (pf := 0#8) (pp := packABC 0#16 0#16 0#16) rfl rfl
    ⟨by decide, by decide, by rw [packABC_and]; simp⟩

theorem rdtab (idx : U8) : Statement (.rdtab idx) :=
  fun _ => admits_packWord (mo := 0xFF#8) (mf := 0#8) (mp := 0xFFFFFFFFFFFF#48) (po := 0x0C#8) (pf := 0#8)
    (pp := 0#48) rfl rfl ⟨by decide, by simp, by decide⟩

theorem rdstStatus : Statement .rdstStatus := fun _ => by decide

theorem rdstPoly : Statement .rdstPoly := fun _ => by decide

theorem rdstInit : Statement .rdstInit := fun _ => by decide

theorem rdstFinxor : Statement .rdstFinxor := fun _ => by decide

theorem rdstMode : Statement .rdstMode := fun _ => by decide

theorem rdstCrc : Statement .rdstCrc := fun _ => by decide

end Laws.EncodeInRow

end Sys2Proof
end

