-- ==== Sys2Proof/Laws/Run.lean ====
section
/-! SUPPORT. Runs of several steps: how a run begins, how runs follow one another, and the steps of delivered commands. -/

namespace Sys2Proof.Safety

open Sys2Proof.Machine

@[simp] theorem run_zero (s : State) : run 0 s = .next s := rfl

/-- For any machine: a run whose first step answers a next state goes on from it. -/
theorem core_run_next (M : Host.Core) {n : Nat} {s t : M.State} (h : M.step s = .next t) :
    M.run (n + 1) s = M.run n t := by
  rw [Host.Core.run, h]

theorem core_run_refused (M : Host.Core) {n : Nat} {s : M.State} {r : M.Refusal} (h : M.step s = .refused r) :
    M.run (n + 1) s = .refused r := by
  rw [Host.Core.run, h]

theorem run_succ {n : Nat} {s t : State} (h : step s = .next t) : run (n + 1) s = run n t :=
  core_run_next Sys2Proof.core h

theorem run_add {m n : Nat} {s t : State} (h : run m s = .next t) : run (m + n) s = run n t := by
  induction m generalizing s with
  | zero =>
    cases h
    rw [Nat.zero_add]
  | succ m ih =>
    obtain ⟨u, hu⟩ : ∃ u, step s = .next u := by
      cases hs : step s with
      | next u => exact ⟨u, rfl⟩
      | fault r => exact nomatch r
      | refused r =>
        have hr : run (m + 1) s = .refused r := core_run_refused Sys2Proof.core hs
        exact absurd (h.symm.trans hr) (by simp)
    rw [Nat.add_right_comm, run_succ hu]
    exact ih ((run_succ hu).symm.trans h)

/-- Inputs already there are not lost by delivering more. -/
@[simp] theorem deliver_nil (s : State) : deliver [] s = s := by
  cases s
  simp [deliver]

theorem deliver_append (ws vs : List CommandWord) (s : State) : deliver (ws ++ vs) s = deliver vs (deliver ws s) := by
  cases s
  simp [deliver]

/-- A command does not read the inputs still to come, and leaves them as they are. -/
theorem exec_with_inputs {i : Instr} {s t : State} (h : exec i s = .next t) (l : List PortInput) :
    exec i { s with inputs := l } = .next { t with inputs := l } := by
  cases hw : i.wf
  · rw [exec_reserved hw] at h ⊢
    cases h
    rfl
  · rw [exec_eq hw] at h ⊢
    have hm : missing (needOf i) { s with inputs := l } = missing (needOf i) s := by cases needOf i <;> rfl
    obtain ⟨hn, ht⟩ | ⟨e, he, ht⟩ := perform_cases h
    · rw [perform_of_none (hm.trans hn), ht]
      have hT : ensureTable { s with inputs := l } = { ensureTable s with inputs := l } := by
        unfold ensureTable
        split <;> rfl
      cases i <;> simp only [effectOf, startDigest, markDigest]
      case cfgp => split <;> rfl
      all_goals first | rfl | (rw [hT]; rfl)
    · rw [perform_of_some (hm.trans he), ht]
      rfl

/-- A command sequence runs its first command, and then the rest. -/
theorem runCommands_cons {i : Instr} {is : List Instr} {s t : State} (hd : decode (encode i) = .ok i)
    (hs : s.inputs = []) (he : exec i s = .next t) : runCommands (i :: is) s = runCommands is t := by
  have hi : (deliver ((i :: is).map encode) s).inputs =
      .command (encode i) :: (is.map encode).map PortInput.command := by
    simp [deliver, hs]
  have ht : t.inputs = [] := by
    obtain ⟨e, rfl⟩ | ⟨-, -, rfl⟩ := exec_cases he <;> simp [hs]
  refine run_succ ?_
  rw [step, nextInput_cons hi]
  simp only [hd]
  refine (exec_with_inputs he _).trans ?_
  simp [deliver, ht]

end Sys2Proof.Safety
end

