-- ==== Sys2Proof/Tests/Slice0.lean ====
section
/-! SUPPORT. Tests. Words and expected values are those of 30_encoding.md R85 and 95_test_vectors.md (V, S and P numbers), or
worked out by hand from the rule named. The witnesses at the end show, for each statement with hypotheses, a state and
operands that meet them all. -/

namespace Sys2Proof.Tests

open Sys2Proof.Machine Sys2Proof.Safety

/-! ### WellFormed -/

/-- The one ill-formed shape: a reserved preset number (R81); 4 and 255 are refused, 0 and 3 are not. -/
theorem test_wellFormed_refuses_reserved_preset :
    (Instr.cfgp 4#8).wf = false ∧ (Instr.cfgp 255#8).wf = false ∧ (Instr.cfgp 0#8).wf = true ∧
      (Instr.cfgp 3#8).wf = true := by decide

/-- A CFGP with a reserved preset number, given to exec as it stands, fails E_RSVD. -/
theorem test_reserved_preset_fails :
    exec (.cfgp 4#8) State.reset = .next { State.reset with
      err := true, errcode := 0x02#8, responses := [0x02000000#32] } := by rfl

/-! ### Decoding: a word of every row, written out from the encoding (R70 to R77, R85) -/

theorem test_decode_cfg : decode 0x01018005FFFF0000#64 = .ok (.cfg 0x8005#16 0xFFFF#16 0x0000#16 true false) ∧
    decode 0x01031021FFFFFFFF#64 = .ok (.cfg 0x1021#16 0xFFFF#16 0xFFFF#16 true true) := by decide
theorem test_decode_cfgp : decode 0x0201000000000000#64 = .ok (.cfgp 1#8) := by decide
theorem test_decode_ensure : decode 0x0300000000000000#64 = .ok .ensure := by decide
theorem test_decode_create : decode 0x0400000000000000#64 = .ok .create := by decide
theorem test_decode_loadcrc : decode 0x0500000000001234#64 = .ok (.loadcrc 0x1234#16) := by decide
theorem test_decode_reset : decode 0x0600000000000000#64 = .ok .reset := by decide
theorem test_decode_write0 : decode 0x0700000000000000#64 = .ok .write0 := by decide
theorem test_decode_write1 : decode 0x0701610000000000#64 = .ok (.write1 0x61#8) := by decide
theorem test_decode_write2 : decode 0x0702626300000000#64 = .ok (.write2 0x62#8 0x63#8) := by decide
theorem test_decode_write3 : decode 0x0703616263000000#64 = .ok (.write3 0x61#8 0x62#8 0x63#8) := by decide
theorem test_decode_write4 : decode 0x0704313233340000#64 = .ok (.write4 0x31#8 0x32#8 0x33#8 0x34#8) := by decide
theorem test_decode_write5 :
    decode 0x0705353637383900#64 = .ok (.write5 0x35#8 0x36#8 0x37#8 0x38#8 0x39#8) := by decide
theorem test_decode_write6 :
    decode 0x0706313233343536#64 = .ok (.write6 0x31#8 0x32#8 0x33#8 0x34#8 0x35#8 0x36#8) := by decide
theorem test_decode_sum16 : decode 0x0800000000000000#64 = .ok .sum16 := by decide
theorem test_decode_sumb : decode 0x0900000000000000#64 = .ok .sumb := by decide
theorem test_decode_blksz : decode 0x0A00000000000000#64 = .ok .blksz := by decide
theorem test_decode_rev16 : decode 0x0B00000000001021#64 = .ok (.rev16 0x1021#16) := by decide
theorem test_decode_rdtab : decode 0x0C80000000000000#64 = .ok (.rdtab 0x80#8) := by decide
theorem test_decode_rdst :
    decode 0x0D00000000000000#64 = .ok .rdstStatus ∧ decode 0x0D01000000000000#64 = .ok .rdstPoly ∧
    decode 0x0D02000000000000#64 = .ok .rdstInit ∧ decode 0x0D03000000000000#64 = .ok .rdstFinxor ∧
    decode 0x0D04000000000000#64 = .ok .rdstMode ∧ decode 0x0D05000000000000#64 = .ok .rdstCrc := by decide

/-- Reserved and illegal words: V4, V6, V7, V9, V12, V15, V16, V20, V24, V28, P4 line 8; V1 to V3 (R80 to R82). -/
theorem test_decode_refuses :
    ([0x01041021FFFFFFFF#64, 0x0204000000000000#64, 0x0200000000000001#64, 0x0300000000000001#64,
      0x0500000000010000#64, 0x0707000000000000#64, 0x0700000000000001#64, 0x070161FF00000000#64,
      0x0A01000000000000#64, 0x0C00000000000001#64, 0x0D06000000000000#64].map decode).all
        (fun d => decide (d = .error .reserved)) = true ∧
    ([0x0000000000000000#64, 0xFF00000000000000#64, 0x0E00000000000000#64].map decode).all
        (fun d => decide (d = .error .illegal)) = true := by decide

/-- The host's two entry points read the same word: the table's match of RDTAB with index 1, and RDST CRC. -/
theorem test_decodeTableWord :
    decodeTableWord 64 0x0C01000000000000 = some (.rdtab 1#8) ∧
    decodeTableWord 64 0x0D05000000000000 = some .rdstCrc ∧ decodeTableWord 64 0 = none := by decide

/-- The rows of R79 do not overlap: no two match patterns agree under both masks. -/
theorem test_rows_disjoint :
    opcodeRows.Pairwise fun r q => r.pattern &&& q.mask ≠ q.pattern &&& r.mask := by decide

/-- R85's spelling of three lines, and R86's expansion of nine bytes. -/
theorem test_assemble :
    assemble (.cfg 0x1021#16 0x0000#16 0x0000#16 false true) = some [0x0102102100000000#64] ∧
    assemble (.cfgp .ppp) = some [0x0200000000000000#64] ∧ assemble (.rdstNumber 5) = some [0x0D05000000000000#64] ∧
    assemble (.writes (ascii ['1', '2', '3', '4', '5', '6', '7', '8', '9'])) =
      some [0x0706313233343536#64, 0x0703373839000000#64] := by decide

/-! ### Small states -/

/-- A state right after this Configuration was loaded. -/
def loaded (poly init finxor : U16) (bitrev bigend : Bool) : State :=
  { State.reset with
    poly := poly, init := init, finxor := finxor, bitrev := bitrev, bigend := bigend, cfgValid := true }

/-- The state with its table built. -/
def built (s : State) : State := { s with table := buildTable s.bitrev s.poly, tableValid := true }

/-- The state with its table built and a Digest holding this register. -/
def digest (crc : U16) (s : State) : State := { built s with crc := crc, digestValid := true }

def x25 : State := loaded 0x1021#16 0xFFFF#16 0xFFFF#16 true false
def modbus : State := loaded 0x8005#16 0xFFFF#16 0x0000#16 true false
def xmodem : State := loaded 0x1021#16 0x0000#16 0x0000#16 false true
def kermit : State := loaded 0x1021#16 0x0000#16 0x0000#16 true false

/-- What a step on this word shows: its response, STATUS after it, and CRC after it. -/
def shown (s : State) (w : Nat) : Option (ResponseWord × U16 × U16) :=
  match step (s.withFetchWord 64 w) with
  | .next t => t.responses.getLast?.map fun r => (r, statusView t, t.crc)
  | .fault _ => none
  | .refused _ => none

/-- The response alone. -/
def response (s : State) (w : Nat) : Option ResponseWord := (shown s w).map Prod.fst

/-- The response and STATUS after it. -/
def withStatus (s : State) (w : Nat) : Option (ResponseWord × U16) := (shown s w).map fun x => (x.1, x.2.1)

/-! ### Commands, one step each -/

/-- V5. -/
theorem test_cfg : withStatus State.reset 0x01031021FFFFFFFF = some (0x00000000#32, 0x0001#16) := by decide
/-- R102's corner case: the same five values again still clear the two flags. -/
theorem test_cfg_again :
    withStatus (digest 0xFFFF#16 x25) 0x01011021FFFFFFFF = some (0x00000000#32, 0x0001#16) := by decide +kernel
/-- R103's example, register by register. -/
theorem test_cfgp_modbus : exec (.cfgp 1#8) State.reset =
    .next { State.reset with
      poly := 0x8005#16, init := 0xFFFF#16, finxor := 0x0000#16, bitrev := true, bigend := false, cfgValid := true,
      responses := [0x00000000#32] } := by rfl
/-- V55. -/
theorem test_cfgp_destroys_digest :
    withStatus (digest 0xFFFF#16 x25) 0x0200000000000000 = some (0x00000000#32, 0x0001#16) := by decide +kernel
/-- V40, and V42 and V48. -/
theorem test_ensure :
    withStatus x25 0x0300000000000000 = some (0x00000001#32, 0x0003#16) ∧
    withStatus (built x25) 0x0300000000000000 = some (0x00000000#32, 0x0003#16) := by decide +kernel
/-- V8. -/
theorem test_ensure_no_configuration :
    withStatus State.reset 0x0300000000000000 = some (0x03000000#32, 0x0308#16) := by decide
/-- V41. -/
theorem test_create : shown x25 0x0400000000000000 = some (0x00000000#32, 0x0007#16, 0xFFFF#16) := by decide +kernel
/-- V10. -/
theorem test_create_no_configuration :
    withStatus State.reset 0x0400000000000000 = some (0x03000000#32, 0x0308#16) := by decide
/-- R155's example. -/
theorem test_loadcrc :
    shown kermit 0x0500000000008832 = some (0x00000000#32, 0x0007#16, 0x8832#16) := by decide +kernel
/-- V11. -/
theorem test_loadcrc_no_configuration :
    withStatus State.reset 0x0500000000001234 = some (0x03000000#32, 0x0308#16) := by decide
/-- P2 line 7: RESET sets the register to INIT, not to a loaded value. -/
theorem test_reset :
    shown (digest 0x9DD6#16 xmodem) 0x0600000000000000 = some (0x00000000#32, 0x0007#16, 0x0000#16) := by
  decide +kernel
/-- V36 and V13. -/
theorem test_reset_no_digest :
    withStatus x25 0x0600000000000000 = some (0x05000000#32, 0x0509#16) ∧
    withStatus State.reset 0x0600000000000000 = some (0x03000000#32, 0x0308#16) := by decide
/-- V51. -/
theorem test_write0 :
    shown (digest 0xFFFF#16 x25) 0x0700000000000000 = some (0x00000000#32, 0x0007#16, 0xFFFF#16) := by decide +kernel
/-- V52, V53, V56, V60, V61 and V63: both bit orders, two polynomials, and a byte that makes the table index 0. -/
theorem test_write1 :
    (shown (digest 0xFFFF#16 x25) 0x0701610000000000 = some (0x00000001#32, 0x0007#16, 0x7D08#16) ∧
    shown (digest 0xFFFF#16 x25) 0x0701FF0000000000 = some (0x00000001#32, 0x0007#16, 0x00FF#16)) ∧
    (shown (digest 0x0000#16 xmodem) 0x0701610000000000 = some (0x00000001#32, 0x0007#16, 0x7C87#16) ∧
    shown (digest 0xFFFF#16 modbus) 0x0701610000000000 = some (0x00000001#32, 0x0007#16, 0xA87E#16)) ∧
    shown (digest 0xFFFF#16 modbus) 0x0701310000000000 = some (0x00000001#32, 0x0007#16, 0x947E#16) ∧
    shown (digest 0x0000#16 kermit) 0x0701610000000000 = some (0x00000001#32, 0x0007#16, 0x728F#16) := by decide +kernel
/-- V37 and V14. -/
theorem test_write1_no_digest :
    withStatus x25 0x0701610000000000 = some (0x05000000#32, 0x0509#16) ∧
    withStatus State.reset 0x0701610000000000 = some (0x03000000#32, 0x0308#16) := by decide
/-- P2 line 4. -/
theorem test_write2 :
    shown (digest 0x7C87#16 xmodem) 0x0702626300000000 = some (0x00000002#32, 0x0007#16, 0x9DD6#16) := by decide +kernel
/-- P1 line 4 and P3 line 10. -/
theorem test_write3 :
    shown (digest 0x198D#16 x25) 0x0703373839000000 = some (0x00000003#32, 0x0007#16, 0x6F91#16) ∧
    shown (digest 0xFFFF#16 modbus) 0x0703616263000000 = some (0x00000003#32, 0x0007#16, 0x5749#16) := by decide +kernel
/-- P5 line 2. -/
theorem test_write4 :
    shown (digest 0x0000#16 kermit) 0x0704313233340000 = some (0x00000004#32, 0x0007#16, 0x8832#16) := by decide +kernel
/-- P5 line 11. -/
theorem test_write5 :
    shown (digest 0x8832#16 kermit) 0x0705353637383900 = some (0x00000005#32, 0x0007#16, 0x2189#16) := by decide +kernel
/-- V54 and P2 line 9. -/
theorem test_write6 :
    shown (digest 0xFFFF#16 x25) 0x0706313233343536 = some (0x00000006#32, 0x0007#16, 0x198D#16) ∧
    shown (digest 0x0000#16 xmodem) 0x0706313233343536 = some (0x00000006#32, 0x0007#16, 0x20E4#16) := by decide +kernel
/-- S5, V49 and P3 line 11; the register stays (R181). -/
theorem test_sum16 :
    shown (digest 0x7D08#16 x25) 0x0800000000000000 = some (0x000082F7#32, 0x0007#16, 0x7D08#16) ∧
    response (digest 0xFFFF#16 x25) 0x0800000000000000 = some 0x00000000#32 ∧
    response (digest 0x5749#16 modbus) 0x0800000000000000 = some 0x00005749#32 := by decide +kernel
/-- V38 and V17. -/
theorem test_sum16_no_digest :
    withStatus x25 0x0800000000000000 = some (0x05000000#32, 0x0509#16) ∧
    withStatus State.reset 0x0800000000000000 = some (0x03000000#32, 0x0308#16) := by decide
/-- S11 (low byte first), P2 line 6 (high byte first), P3 line 12. -/
theorem test_sumb :
    shown (digest 0x7D08#16 x25) 0x0900000000000000 = some (0x0000F782#32, 0x0007#16, 0x7D08#16) ∧
    response (digest 0x9DD6#16 xmodem) 0x0900000000000000 = some 0x00009DD6#32 ∧
    response (digest 0x5749#16 modbus) 0x0900000000000000 = some 0x00004957#32 := by decide +kernel
/-- V39 and V18. -/
theorem test_sumb_no_digest :
    withStatus x25 0x0900000000000000 = some (0x05000000#32, 0x0509#16) ∧
    withStatus State.reset 0x0900000000000000 = some (0x03000000#32, 0x0308#16) := by decide
/-- V19. -/
theorem test_blksz : withStatus State.reset 0x0A00000000000000 = some (0x00000001#32, 0x0000#16) := by decide
/-- V21, and two more values of the rev16 table of 95_test_vectors.md. -/
theorem test_rev16 :
    withStatus State.reset 0x0B00000000001021 = some (0x00008408#32, 0x0000#16) ∧
    response State.reset 0x0B00000000001234 = some 0x00002C48#32 ∧
    response State.reset 0x0B000000000000FF = some 0x0000FF00#32 := by decide
/-- V43 to V45, P3 lines 5 to 7. -/
theorem test_rdtab :
    ([0x0C01000000000000, 0x0C80000000000000, 0x0CFF000000000000].map (response (built x25)) =
      [some 0x00001189#32, some 0x00008408#32, some 0x00000F78#32]) ∧
    [0x0C01000000000000, 0x0C80000000000000, 0x0CFF000000000000].map (response (built modbus)) =
      [some 0x0000C0C1#32, some 0x0000A001#32, some 0x00004040#32] := by decide +kernel
/-- V35 and V23. -/
theorem test_rdtab_no_table :
    withStatus x25 0x0C01000000000000 = some (0x04000000#32, 0x0409#16) ∧
    withStatus State.reset 0x0C00000000000000 = some (0x03000000#32, 0x0308#16) := by decide
/-- V25 and V29; V46 and V47. -/
theorem test_rdst_status :
    (response State.reset 0x0D00000000000000 = some 0x00000000#32 ∧
    withStatus x25 0x0D00000000000000 = some (0x00000001#32, 0x0001#16)) ∧
    response (built x25) 0x0D00000000000000 = some 0x00000003#32 ∧
    response (digest 0xFFFF#16 x25) 0x0D00000000000000 = some 0x00000007#32 := by decide +kernel
/-- P3 line 13: the error bits of STATUS. -/
theorem test_rdst_status_error :
    response { digest 0x5749#16 modbus with err := true, errcode := 0x04#8 } 0x0D00000000000000 =
      some 0x0000040F#32 := by decide +kernel
/-- V30 and V26. -/
theorem test_rdst_poly :
    withStatus x25 0x0D01000000000000 = some (0x00001021#32, 0x0001#16) ∧
    withStatus State.reset 0x0D01000000000000 = some (0x03000000#32, 0x0308#16) := by decide
/-- V31; INIT and FINXOR told apart by the Modbus tuple. -/
theorem test_rdst_init :
    withStatus x25 0x0D02000000000000 = some (0x0000FFFF#32, 0x0001#16) ∧
    response modbus 0x0D02000000000000 = some 0x0000FFFF#32 := by decide
/-- V32; as above. -/
theorem test_rdst_finxor :
    withStatus x25 0x0D03000000000000 = some (0x0000FFFF#32, 0x0001#16) ∧
    response modbus 0x0D03000000000000 = some 0x00000000#32 := by decide
/-- V33 and V58. -/
theorem test_rdst_mode :
    withStatus x25 0x0D04000000000000 = some (0x00000001#32, 0x0001#16) ∧
    response xmodem 0x0D04000000000000 = some 0x00000002#32 := by decide
/-- P1 line 7. -/
theorem test_rdst_crc :
    shown (digest 0x6F91#16 x25) 0x0D05000000000000 = some (0x00006F91#32, 0x0007#16, 0x6F91#16) := by decide +kernel
/-- V34 and V27. -/
theorem test_rdst_crc_no_digest :
    withStatus x25 0x0D05000000000000 = some (0x05000000#32, 0x0509#16) ∧
    withStatus State.reset 0x0D05000000000000 = some (0x03000000#32, 0x0308#16) := by decide

/-! ### Failures, the hardware reset, the port -/

/-- V1 to V3 and, of two applicable codes, V9 and V16 (R223). -/
theorem test_illegal_and_reserved :
    [0x0000000000000000, 0xFF00000000000000, 0x0E00000000000000, 0x0300000000000001, 0x0700000000000001].map
        (withStatus State.reset) =
      [some (0x01000000#32, 0x0108#16), some (0x01000000#32, 0x0108#16), some (0x01000000#32, 0x0108#16),
        some (0x02000000#32, 0x0208#16), some (0x02000000#32, 0x0208#16)] := by decide
/-- P4 lines 3 to 5: the first code stays. -/
theorem test_first_code_stays :
    withStatus { modbus with err := true, errcode := 0x03#8 } 0x0204000000000000 =
      some (0x02000000#32, 0x0309#16) := by decide
/-- R250: reset abandons the command, gives no response, and leaves the later inputs and earlier responses. -/
theorem test_hardware_reset :
    step { x25 with
      err := true, errcode := 0x05#8, responses := [0x05000000#32],
      inputs := [.hardwareReset (some 0x0400000000000000#64), .command 0x0A00000000000000#64] } =
    .next { State.reset with responses := [0x05000000#32], inputs := [.command 0x0A00000000000000#64] } := by rfl
/-- R233. -/
theorem test_idle : step State.reset = .next State.reset := by rfl
/-- R64: two hosts, in the order 0, 1, 0; a turn of host 1 that has no command left passes. -/
theorem test_merge_hosts :
    mergeHosts [0, 1, 1, 0] [[0x0400000000000000#64, 0x0800000000000000#64], [0x0A00000000000000#64]] =
      [(0, 0x0400000000000000#64), (1, 0x0A00000000000000#64), (0, 0x0800000000000000#64)] := by decide

/-! ### The functions -/

/-- Entries of 95_test_vectors.md section 2.1 with a carry pattern of their own. -/
theorem test_buildEntry :
    (buildEntry true 0x1021#16 0x7F#8 = 0x8B70#16 ∧ buildEntry false 0x1021#16 0x31#8 = 0x2672#16) ∧
    buildEntry true 0x8005#16 0xFE#8 = 0x8081#16 ∧ buildEntry false 0x8005#16 0x02#8 = 0x800F#16 := by decide
/-- Folds of section 2.1 with an uneven register. -/
theorem test_foldByte :
    foldByte (buildTable true 0x1021#16) true 0x1234#16 0x56#8 = 0x4006#16 ∧
    foldByte (buildTable false 0x1021#16) false 0x1234#16 0x56#8 = 0x3C40#16 := by decide +kernel
/-- S1 to S4, the document's check values. -/
theorem test_check_values :
    [x25, modbus, xmodem, kermit].map (fun s => checksum s (ascii ['1', '2', '3', '4', '5', '6', '7', '8', '9'])) =
      [0x906E#16, 0x4B37#16, 0x31C3#16, 0x2189#16] := by decide +kernel
/-- S7, S10 and R185's last two values. -/
theorem test_empty_input :
    [x25, modbus, xmodem, kermit].map (fun s => checksum s []) =
      [0x0000#16, 0xFFFF#16, 0x0000#16, 0x0000#16] := by decide +kernel

/-! ### Witnesses: states and operands that meet the hypotheses of a statement, all together -/

/-- The state with this one input on the port. -/
def waiting (x : PortInput) (s : State) : State := { s with inputs := [x] }

theorem witness_DecodeOfEncode : (Instr.cfgp 3#8).wf = true ∧ (Instr.rdtab 0xFF#8).wf = true := by decide
theorem witness_EncodeOfDecode : decode 0x0203000000000000#64 = .ok (.cfgp 3#8) := by decide
theorem witness_OpcodeMapDecodes :
    decode 0x0CFF000000000000#64 = .ok (.rdtab 0xFF#8) ∧
    opcodeRow (.rdtab 0#8) ∈ opcodeRows ∧ (opcodeRow (.rdtab 0#8)).admits 0x0CFF000000000000#64 = true := by decide
/-- Opcodes 0x00, 0x0E and 0xFF are unassigned, 0x01 and 0x0D are not; a state waits with such a word. -/
theorem witness_UnassignedOpcodesFail :
    (IllegalWord 0x0000000000000000#64 ∧ IllegalWord 0x00FFFFFFFFFFFFFF#64) ∧
    (IllegalWord 0x0E00000000000000#64 ∧ IllegalWord 0xFF00000000000000#64) ∧
    (¬ IllegalWord 0x0100000000000000#64 ∧ ¬ IllegalWord 0x0DFFFFFFFFFFFFFF#64) ∧
    (waiting (.command 0x0E00000000000000#64) x25).inputs = [.command 0x0E00000000000000#64] := by decide
/-- Each line of the decoder at its boundary: refused as reserved on one side, not on the other. -/
theorem witness_ReservedWordsFail :
    (∀ w ∈ [0x0104000000000000#64, 0x0204000000000000#64, 0x0200000000000001#64, 0x0300000000000001#64,
      0x0A01000000000000#64, 0x0500000000010000#64, 0x0B01000000000000#64, 0x0707000000000000#64,
      0x0705000000000001#64, 0x0700800000000000#64, 0x0C00000000000001#64, 0x0D06000000000000#64,
      0x0D05800000000000#64], ReservedWord w) ∧
    (∀ w ∈ [0x0103FFFFFFFFFFFF#64, 0x0203000000000000#64, 0x0A00000000000000#64, 0x050000000000FFFF#64,
      0x0706FFFFFFFFFFFF#64, 0x0705FFFFFFFFFF00#64, 0x0CFF000000000000#64, 0x0D05000000000000#64],
      ¬ ReservedWord w) ∧
    (waiting (.command 0x0204000000000000#64) x25).inputs = [.command 0x0204000000000000#64] := by
  refine ⟨?_, ?_, rfl⟩ <;> simp [ReservedWord]
/-- Each clause at its boundaries: six bytes are a WRITE line and seven are none, RDST 5 is a line and RDST 6 none, a string
of ASCII characters, WRITES of one to six bytes and of more, and a line with its words. -/
theorem witness_AssembledLinesDecode :
    (assemble (.write [1#8, 2#8, 3#8, 4#8, 5#8, 6#8]) = some [0x0706010203040506#64] ∧
    assemble (.write [1#8, 2#8, 3#8, 4#8, 5#8, 6#8, 7#8]) = none) ∧
    (assemble (.rdstNumber 5) = some [0x0D05000000000000#64] ∧ assemble (.rdstNumber 6) = none) ∧
    (∀ c ∈ ['a', '~'], c.toNat < 128) ∧
    (0 < [1#8].length ∧ [1#8].length ≤ 6 ∧ [1#8, 2#8, 3#8, 4#8, 5#8, 6#8].length = 6) ∧ (5 : Nat) < 6 ∧
    assemble (.checksum [0x61#8]) = some [0x0400000000000000#64, 0x0701610000000000#64, 0x0800000000000000#64] :=
  ⟨by decide, by decide, by simp, by decide, by decide, rfl⟩
theorem witness_StepRunsDecodedCommand :
    (waiting (.command 0x0203000000000000#64) x25).inputs = [.command 0x0203000000000000#64] ∧
    decode 0x0203000000000000#64 = .ok (.cfgp 3#8) ∧ (Instr.cfgp 3#8).wf = true := by decide
theorem witness_IdleBlockHoldsState : x25.inputs = [] := by decide
/-- A reset between two commands, and one that abandons a command. -/
theorem witness_HardwareResetClears :
    (waiting (.hardwareReset none) x25).inputs = [.hardwareReset none] ∧
    (waiting (.hardwareReset (some 0x0400000000000000#64)) x25).inputs =
      [.hardwareReset (some 0x0400000000000000#64)] := by decide
theorem witness_EveryCommandGetsOneResponse :
    (waiting (.command 0x0000000000000000#64) x25).inputs = [.command 0x0000000000000000#64] := by decide
theorem witness_CommandSequencesGetAllResponses : State.reset.inputs = [] := by decide
/-- A command word that fails, and one that succeeds. -/
theorem witness_FailuresChangeOnlyErrorState :
    response x25 0x0C01000000000000 = some (responseWord 0x04#8 0x0000#16) ∧
    response x25 0x0D01000000000000 = some (responseWord 0x00#8 0x1021#16) := by decide
/-- A word for each of the six outcomes. -/
theorem witness_ChecksAreMadeInOrder :
    (decode 0x0E00000000000000#64 = .error .illegal ∧ decode 0x0204000000000000#64 = .error .reserved) ∧
    (needsConfiguration (.rdtab 0#8) = true ∧ State.reset.cfgValid = false) ∧
    (needsTable (.rdtab 0#8) = true ∧ x25.cfgValid = true ∧ x25.tableValid = false) ∧
    (needsTable .sum16 = false ∧ needsDigest .sum16 = true ∧ x25.digestValid = false) ∧
    needsConfiguration .blksz = false ∧ needsTable .blksz = false ∧ needsDigest .blksz = false := by decide
theorem witness_MissingPrerequisitesTrap :
    (needsConfiguration .rdstCrc = true ∧ State.reset.cfgValid = false) ∧
    (needsTable (.rdtab 0xFF#8) = true ∧ x25.cfgValid = true ∧ x25.tableValid = false) ∧
    (needsDigest .rdstCrc = true ∧ x25.cfgValid = true ∧ x25.digestValid = false) ∧
    Instr.rdstCrc.wf = true ∧ (Instr.rdtab 0xFF#8).wf = true := by decide
theorem witness_SucceedDirectlyAfterReset : (Instr.cfgp 3#8).wf = true ∧ Instr.ensure.wf = true := by decide
/-- ERR set, and a command that fails with another code. -/
theorem witness_ErrorIsSticky :
    ∃ s t : State, (∀ abandoned rest, s.inputs ≠ .hardwareReset abandoned :: rest) ∧ step s = .next t ∧
      s.err = true :=
  ⟨{ waiting (.command 0x0000000000000000#64) x25 with err := true, errcode := 0x05#8 }, _,
    fun _ _ => nofun, rfl, rfl⟩
/-- A state with a Digest, waiting with a WRITE, meets the invariant. -/
theorem witness_StepKeepsInvariant :
    ∃ s t : State, Inv s ∧ step s = .next t ∧ s.digestValid = true :=
  ⟨waiting (.command 0x0701610000000000#64) (digest 0xFFFF#16 x25), _,
    ⟨⟨fun _ => rfl, fun _ => rfl⟩, fun _ => rfl, ⟨by decide, by decide⟩, nofun⟩, rfl, rfl⟩
/-- Both clauses: a built table kept by a step, and a command of each kind on it. -/
theorem witness_BuiltTableIsNeverMutated :
    (∃ s t : State, step s = .next t ∧ s.tableValid = true ∧ s.table = buildTable s.bitrev s.poly ∧
      t.tableValid = true) ∧
    (∃ t, exec .sum16 (digest 0xFFFF#16 x25) = .next t) ∧
    (∃ t, exec (.cfgp 3#8) (digest 0xFFFF#16 x25) = .next t) ∧ writeClass .sum16 ≠ .configuration ∧
    writeClass (.cfgp 3#8) = .configuration ∧ (digest 0xFFFF#16 x25).tableValid = true :=
  ⟨⟨waiting (.command 0x0300000000000000#64) (built x25), _, rfl, rfl, rfl, rfl⟩, ⟨_, rfl⟩, ⟨_, rfl⟩, by decide,
    rfl, rfl⟩
/-- A command of each class. -/
theorem witness_CommandsWriteOnlyTheirState :
    (∃ t, exec .ensure x25 = .next t) ∧
    [writeClass (.cfgp 0#8), writeClass .ensure, writeClass .create, writeClass .write0, writeClass .blksz] =
      [.configuration, .table, .digest, .register, .nothing] :=
  ⟨⟨_, rfl⟩, by decide⟩
/-- Two states that differ in the registers that hold no value, and in no other. -/
theorem witness_UnspecifiedValuesNeverReachResponses :
    ∃ s s' t : State, FlagsOrdered s ∧ AgreeOnValues s s' ∧ s ≠ s' ∧ step s = .next t :=
  ⟨waiting (.command 0x0300000000000000#64) x25,
    { waiting (.command 0x0300000000000000#64) x25 with crc := 0x1234#16 }, _,
    ⟨nofun, nofun⟩,
    ⟨rfl, rfl, rfl, rfl, rfl, rfl, rfl, fun _ => ⟨rfl, rfl, rfl, rfl, rfl⟩, nofun, nofun⟩,
    fun h => absurd (congrArg State.crc h) (by decide), rfl⟩
theorem witness_CfgAndCfgpLoadConfiguration : (3#8 : U8).toNat < 4 ∧ (0#8 : U8).toNat < 4 := by decide
theorem witness_ReservedPresetFails : 4 ≤ (4#8 : U8).toNat ∧ 4 ≤ (255#8 : U8).toNat := by decide
theorem witness_Rev16ReversesBits : (0 : Nat) < 16 ∧ (15 : Nat) < 16 := by decide
theorem witness_Rev16Completes : (0 : Nat) < 16 ∧ (15 : Nat) < 16 := by decide
theorem witness_EnsureBuildsOnce :
    (x25.cfgValid = true ∧ x25.tableValid = false) ∧ (built x25).cfgValid = true ∧ (built x25).tableValid = true :=
  ⟨⟨rfl, rfl⟩, rfl, rfl⟩
theorem witness_RdtabReadsEntry : (built xmodem).cfgValid = true ∧ (built xmodem).tableValid = true := ⟨rfl, rfl⟩
theorem witness_FoldIsLinear : [0x61#8, 0x62#8].length = [0xFF#8, 0x00#8].length := by decide
/-- Three bytes in one command, and in two. -/
theorem witness_SplitInvariance :
    ((digest 0x1234#16 x25).inputs = [] ∧ (digest 0x1234#16 x25).cfgValid = true ∧
      (digest 0x1234#16 x25).digestValid = true) ∧
    (∀ i ∈ [Instr.write3 0x61#8 0x62#8 0x63#8] ++ [.write1 0x61#8, .write0, .write2 0x62#8 0x63#8],
      isWrite i = true) ∧
    [Instr.write3 0x61#8 0x62#8 0x63#8].flatMap dataBytes =
      [Instr.write1 0x61#8, .write0, .write2 0x62#8 0x63#8].flatMap dataBytes :=
  ⟨⟨rfl, rfl, rfl⟩, by decide, rfl⟩
theorem witness_CreateStartsDigest :
    (x25.cfgValid = true ∧ x25.tableValid = false) ∧ (built x25).cfgValid = true ∧ (built x25).tableValid = true :=
  ⟨⟨rfl, rfl⟩, rfl, rfl⟩
theorem witness_LoadcrcSetsRegister :
    (x25.cfgValid = true ∧ x25.tableValid = false) ∧ (built x25).cfgValid = true ∧ (built x25).tableValid = true :=
  ⟨⟨rfl, rfl⟩, rfl, rfl⟩
theorem witness_ResetRestoresInit :
    (digest 0x1234#16 x25).cfgValid = true ∧ (digest 0x1234#16 x25).digestValid = true := ⟨rfl, rfl⟩
theorem witness_WriteFoldsBytes :
    (digest 0x1234#16 xmodem).cfgValid = true ∧ (digest 0x1234#16 xmodem).digestValid = true := ⟨rfl, rfl⟩
/-- Seven bytes: two commands, one of them full. -/
theorem witness_WritesFoldsWholeSequence :
    .write6 1#8 2#8 3#8 4#8 5#8 6#8 ∈ (writesCommands [1#8, 2#8, 3#8, 4#8, 5#8, 6#8, 7#8]).take 1 ∧
    (digest 0x1234#16 x25).inputs = [] ∧ (digest 0x1234#16 x25).cfgValid = true ∧
    (digest 0x1234#16 x25).digestValid = true :=
  ⟨by decide, rfl, rfl, rfl⟩
theorem witness_StreamingEquivalence :
    (built x25).inputs = [] ∧ (built x25).cfgValid = true ∧ TableBuilt (built x25) ∧ TableBuilt x25 ∧
    ∀ i ∈ [Instr.write1 0x61#8, .sum16, .ensure, .write2 0x62#8 0x63#8],
      isWrite i = true ∨ writeClass i = .nothing ∨ i = .ensure :=
  ⟨rfl, rfl, fun _ => rfl, nofun, by decide⟩
theorem witness_ResetEquivalence :
    ((digest 0x1234#16 x25).inputs = [] ∧ (digest 0x1234#16 x25).cfgValid = true) ∧
    ((digest 0x1234#16 x25).digestValid = true ∧ (digest 0x1234#16 x25).tableValid = true) ∧
    ∀ i ∈ [Instr.write1 0x61#8, .write0], isWrite i = true :=
  ⟨⟨rfl, rfl⟩, ⟨rfl, rfl⟩, by decide⟩
theorem witness_Sum16ReturnsFinalValue :
    (digest 0x1234#16 x25).cfgValid = true ∧ (digest 0x1234#16 x25).digestValid = true := ⟨rfl, rfl⟩
/-- Both byte orders. -/
theorem witness_SumbReturnsOrderedBytes :
    ((digest 0x1234#16 x25).cfgValid = true ∧ (digest 0x1234#16 x25).digestValid = true ∧
      (digest 0x1234#16 x25).bigend = false) ∧
    (digest 0x1234#16 xmodem).cfgValid = true ∧ (digest 0x1234#16 xmodem).digestValid = true ∧
    (digest 0x1234#16 xmodem).bigend = true :=
  ⟨⟨rfl, rfl, rfl⟩, rfl, rfl, rfl⟩
/-- With the table built and without. -/
theorem witness_ChecksumReturnsOneShot :
    (x25.inputs = [] ∧ x25.cfgValid = true ∧ TableBuilt x25) ∧
    (built x25).inputs = [] ∧ (built x25).cfgValid = true ∧ TableBuilt (built x25) :=
  ⟨⟨rfl, rfl, nofun⟩, rfl, rfl, fun _ => rfl⟩
theorem witness_EmptyInputChecksum : ∃ t, x25.cfgValid = true ∧ exec .create x25 = .next t := ⟨_, rfl, rfl⟩
theorem witness_RdstReadsRegisters :
    (x25.cfgValid = true) ∧ (digest 0x1234#16 x25).cfgValid = true ∧ (digest 0x1234#16 x25).digestValid = true :=
  ⟨rfl, rfl, rfl⟩
/-- A command repeated, and one that succeeds and writes nothing. -/
theorem witness_RepeatingLeavesSameState :
    (dataBytes (.cfgp 3#8) = [] ∧ ∃ t u, exec (.cfgp 3#8) x25 = .next t ∧ exec (.cfgp 3#8) t = .next u) ∧
    ∃ t, writeClass .rdstPoly = .nothing ∧ exec .rdstPoly x25 = .next t ∧
      t.responses = x25.responses ++ [responseWord 0x00#8 0x1021#16] :=
  ⟨⟨rfl, _, _, rfl, rfl⟩, _, rfl, rfl, rfl⟩
theorem witness_SavedDigestResumes :
    ∃ t u v : State, ((digest 0x8832#16 kermit).cfgValid = true ∧ (digest 0x8832#16 kermit).tableValid = true ∧
      (digest 0x8832#16 kermit).digestValid = true ∧ TableBuilt (digest 0x8832#16 kermit)) ∧
      exec (.cfg 0x1021#16 0xFFFF#16 0xFFFF#16 true false) (digest 0x8832#16 kermit) = .next t ∧
      exec (.cfg 0x1021#16 0x0000#16 0x0000#16 true false) t = .next u ∧ exec (.loadcrc 0x8832#16) u = .next v :=
  ⟨_, _, _, ⟨rfl, rfl, rfl, fun _ => rfl⟩, rfl, rfl, rfl⟩
theorem witness_EveryInterleavingIsAdmitted :
    ∀ h, (([(0, 1#64), (1, 3#64), (0, 2#64)] : List (Nat × CommandWord)).filter fun c => c.1 == h).map Prod.snd =
      [[1#64, 2#64], [3#64]].getD h [] := by
  intro h
  match h with
  | 0 => rfl
  | 1 => rfl
  | n + 2 => simp

end Sys2Proof.Tests
end

/-! # The state: what a command writes, the invariants, and the values that cannot be read (10_state.md) -/

/-! ## What each class of commands does to the state (10_state.md R35) -/

namespace Sys2Proof.Safety

open Sys2Proof.Machine

/-! ### The checks before a command, passed (60_exceptions.md R221) -/

theorem missing_config_eq_none {s : State} : missing .config s = none ↔ s.cfgValid = true := by
  simp [missing_config]

theorem missing_table_eq_none {s : State} :
    missing .table s = none ↔ s.cfgValid = true ∧ s.tableValid = true := by
  simp only [missing_table]
  split <;> simp_all

theorem missing_digest_eq_none {s : State} :
    missing .digest s = none ↔ s.cfgValid = true ∧ s.digestValid = true := by
  simp only [missing_digest]
  split <;> simp_all

/-- CFG and CFGP need nothing. -/
theorem needOf_of_configuration {i : Instr} (h : writeClass i = .configuration) : needOf i = .nothing := by
  cases i
  case cfg | cfgp => rfl
  all_goals cases h

/-- A new Digest, as an update of the fields it writes (42_update_engine.md R154, R155). -/
theorem startDigest_eq (value : U16) (s : State) :
    startDigest value s =
      { s with table := (ensureTable s).table, tableValid := true, crc := value, digestValid := true } := by
  rw [startDigest, markDigest, ensureTable_eq]

/-- With the table built, a new Digest writes only CRC and DIGEST_VALID. -/
theorem startDigest_of_valid {s : State} (value : U16) (h : s.tableValid = true) :
    startDigest value s = { s with crc := value, digestValid := true } := by
  rw [startDigest, ensureTable_of_valid h]
  rfl

/-- What a command of a class that succeeds can do to the state, its response aside, with the checks it has passed. -/
inductive ClassEffect (s : State) : WriteClass → State → Prop where
  | configuration (a : Attributes) : ClassEffect s .configuration (newConfiguration a s)
  | table (hcfg : s.cfgValid = true) : ClassEffect s .table (ensureTable s)
  | digest (hcfg : s.cfgValid = true) (value : U16) : ClassEffect s .digest (startDigest value s)
  | register (value : U16) : ClassEffect s .register { s with crc := value }
  | nothing : ClassEffect s .nothing s

/-- The effect of a legal command whose checks pass is one its class allows. -/
theorem classEffect_effectOf {i : Instr} {s : State} (hw : i.wf = true) (hm : missing (needOf i) s = none) :
    ClassEffect s (writeClass i) (effectOf i s) := by
  cases i
  case cfg => exact .configuration _
  case cfgp sel =>
    obtain ⟨a, ha⟩ := preset_of_legal hw
    simp only [effectOf, ha]
    exact .configuration a
  case ensure => exact .table (missing_config_eq_none.mp hm)
  case create | loadcrc => exact .digest (missing_config_eq_none.mp hm) _
  case reset | write0 | write1 | write2 | write3 | write4 | write5 | write6 => exact .register _
  all_goals exact .nothing

/-! ### Which command may write what -/

/-- From `s` to `t` nothing is written but what the row of 10_state.md R35 gives a command of the class. -/
def WritesOnly (c : WriteClass) (s t : State) : Prop :=
  (c ≠ .configuration → t.poly = s.poly ∧ t.init = s.init ∧ t.finxor = s.finxor ∧ t.bitrev = s.bitrev ∧
    t.bigend = s.bigend ∧ t.cfgValid = s.cfgValid) ∧
  (c = .register ∨ c = .nothing → t.tableValid = s.tableValid ∧ t.table = s.table) ∧
  (c ≠ .configuration → c ≠ .digest → t.digestValid = s.digestValid) ∧
  (c = .table ∨ c = .nothing → t.crc = s.crc) ∧
  t.inputs = s.inputs

/-- A failure writes nothing that any class is held from writing. -/
theorem writesOnly_fail (c : WriteClass) (e : ErrorCode) (s : State) : WritesOnly c s (fail e s) :=
  ⟨fun _ => ⟨rfl, rfl, rfl, rfl, rfl, rfl⟩, fun _ => ⟨rfl, rfl⟩, fun _ _ => rfl, fun _ => rfl, rfl⟩

theorem ClassEffect.writesOnly {c : WriteClass} {s u : State} (h : ClassEffect s c u) : WritesOnly c s u := by
  cases h with
  | configuration a => simp [WritesOnly]
  | table => rw [ensureTable_eq]; simp [WritesOnly]
  | digest => rw [startDigest_eq]; simp [WritesOnly]
  | register => simp [WritesOnly]
  | nothing => simp [WritesOnly]

theorem exec_writesOnly {i : Instr} {s t : State} (h : exec i s = .next t) : WritesOnly (writeClass i) s t := by
  obtain ⟨e, rfl⟩ | ⟨hw, hm, rfl⟩ := exec_cases h
  · exact writesOnly_fail _ e s
  · exact (classEffect_effectOf hw hm).writesOnly

/-- Settles O23: a command that fails writes only the error state, and one that succeeds has an effect of its class. -/
theorem commandsWriteOnlyTheirState : Obligations.CommandsWriteOnlyTheirState :=
  fun _ _ _ h => exec_writesOnly h

end Sys2Proof.Safety

/-! ## The invariants every step keeps (10_state.md R28, R31, R33; 30_encoding.md R71) -/

namespace Sys2Proof.Safety

open Sys2Proof.Machine

/-- A property that failing and every successful command keep is kept by every command. -/
theorem exec_keeps {P : State → Prop} (hfail : ∀ e s, P s → P (fail e s))
    (heffect : ∀ i s, i.wf = true → missing (needOf i) s = none → P s → P (respondOk (dataOf i s) (effectOf i s)))
    {i : Instr} {s t : State} (hs : P s) (h : exec i s = .next t) : P t := by
  obtain ⟨e, rfl⟩ | ⟨hw, hm, rfl⟩ := exec_cases h
  · exact hfail e s hs
  · exact heffect i s hw hm hs

/-- A property that does not read the inputs and that the hardware reset, failing and every successful command keep is
kept by every step. -/
theorem step_keeps {P : State → Prop} (hinputs : ∀ s l, P s → P { s with inputs := l })
    (hreset : ∀ s, P s → P (hardwareReset s)) (hfail : ∀ e s, P s → P (fail e s))
    (heffect : ∀ i s, i.wf = true → missing (needOf i) s = none → P s → P (respondOk (dataOf i s) (effectOf i s)))
    {s t : State} (hs : P s) (h : step s = .next t) : P t := by
  obtain ⟨-, rfl⟩ | ⟨_, rest, -, rfl⟩ | ⟨_, rest, i, -, -, he⟩ | ⟨_, rest, r, -, -, rfl⟩ := step_cases h
  · exact hs
  · exact hreset _ (hinputs s rest hs)
  · exact exec_keeps hfail heffect (hinputs s rest hs) he
  · exact hfail _ _ (hinputs s rest hs)

/-! ### The order of the valid flags (10_state.md R31) -/

theorem ClassEffect.flagsOrdered {c : WriteClass} {s u : State} (h : ClassEffect s c u) (hs : FlagsOrdered s) :
    FlagsOrdered u := by
  cases h with
  | configuration a => exact ⟨nofun, nofun⟩
  | table hcfg => rw [ensureTable_eq]; exact ⟨fun _ => rfl, fun _ => hcfg⟩
  | digest hcfg => rw [startDigest_eq]; exact ⟨fun _ => rfl, fun _ => hcfg⟩
  | register => exact hs
  | nothing => exact hs

theorem step_keeps_flagsOrdered {s t : State} (hs : FlagsOrdered s) (h : step s = .next t) : FlagsOrdered t :=
  step_keeps (P := FlagsOrdered) (fun _ _ hs => hs) (fun _ _ => ⟨nofun, nofun⟩) (fun _ _ hs => hs)
    (fun _ _ hw hm hs => (classEffect_effectOf hw hm).flagsOrdered hs) hs h

/-! ### The built table (10_state.md R28) -/

/-- The table is the built table exactly when its entries are. -/
theorem tableBuilt_iff {s : State} :
    TableBuilt s ↔ (s.tableValid = true → ∀ i, tabRead s.table i = buildEntry s.bitrev s.poly i) := by
  refine imp_congr_right fun _ => ⟨fun h i => ?_, fun h => table_ext fun i => ?_⟩
  · rw [h, tabRead_buildTable]
  · rw [h, tabRead_buildTable]

theorem tableBuilt_ensureTable {s : State} (hs : TableBuilt s) : TableBuilt (ensureTable s) := by
  cases hv : s.tableValid
  · rw [ensureTable_of_not_valid hv]
    exact fun _ => rfl
  · rwa [ensureTable_of_valid hv]

theorem ClassEffect.tableBuilt {c : WriteClass} {s u : State} (h : ClassEffect s c u) (hs : TableBuilt s) :
    TableBuilt u := by
  cases h with
  | configuration a => exact nofun
  | table => exact tableBuilt_ensureTable hs
  | digest => exact tableBuilt_ensureTable hs
  | register => exact hs
  | nothing => exact hs

theorem step_keeps_tableBuilt {s t : State} (hs : TableBuilt s) (h : step s = .next t) : TableBuilt t :=
  step_keeps (P := TableBuilt) (fun _ _ hs => hs) (fun _ _ => nofun) (fun _ _ hs => hs)
    (fun _ _ hw hm hs => (classEffect_effectOf hw hm).tableBuilt hs) hs h

/-- A built table stands, with POLY, BITREV and TABLE_VALID, under every effect but a new Configuration's. -/
theorem ClassEffect.keeps_built {c : WriteClass} {s u : State} (h : ClassEffect s c u) (hv : s.tableValid = true)
    (hc : c ≠ .configuration) :
    u.table = s.table ∧ u.poly = s.poly ∧ u.bitrev = s.bitrev ∧ u.tableValid = true := by
  cases h with
  | configuration a => exact absurd rfl hc
  | table => rw [ensureTable_of_valid hv]; exact ⟨rfl, rfl, rfl, hv⟩
  | digest => rw [startDigest_of_valid _ hv]; exact ⟨rfl, rfl, rfl, hv⟩
  | register => exact ⟨rfl, rfl, rfl, hv⟩
  | nothing => exact ⟨rfl, rfl, rfl, hv⟩

theorem exec_keeps_built {i : Instr} {s t : State} (h : exec i s = .next t) (hv : s.tableValid = true)
    (hc : writeClass i ≠ .configuration) :
    t.table = s.table ∧ t.poly = s.poly ∧ t.bitrev = s.bitrev ∧ t.tableValid = true := by
  obtain ⟨e, rfl⟩ | ⟨hw, hm, rfl⟩ := exec_cases h
  · exact ⟨rfl, rfl, rfl, hv⟩
  · exact (classEffect_effectOf hw hm).keeps_built hv hc

theorem ClassEffect.tableValid_of_configuration {s u : State} (h : ClassEffect s .configuration u) :
    u.tableValid = false := by
  cases h
  rfl

/-- CFG and CFGP cannot fail once decoded, and clear TABLE_VALID. -/
theorem exec_configuration_tableValid {i : Instr} {s t : State} (h : exec i s = .next t) (hw : i.wf = true)
    (hc : writeClass i = .configuration) : t.tableValid = false := by
  have hm : missing (needOf i) s = none := by rw [needOf_of_configuration hc, missing_nothing]
  rw [exec_eq hw, perform_of_none hm] at h
  cases h
  exact (hc ▸ classEffect_effectOf hw hm).tableValid_of_configuration

/-- Settles O22: the table invariant is a step lemma, and the commands split by their class. -/
theorem builtTableIsNeverMutated : Obligations.BuiltTableIsNeverMutated :=
  ⟨rfl, fun _ _ h hs => tableBuilt_iff.mp (step_keeps_tableBuilt (tableBuilt_iff.mpr hs) h),
    fun _ _ _ h hw hv => ⟨exec_keeps_built h hv, exec_configuration_tableValid h hw⟩⟩

/-! ### ERRCODE against ERR (10_state.md R33) -/

theorem errorStatus_ne_zero (e : ErrorCode) : errorStatus e ≠ 0x00#8 := by
  cases e <;> decide

theorem errorStatus_le_five (e : ErrorCode) : (errorStatus e).toNat ≤ 5 := by
  cases e <;> decide

theorem errorCoherent_reset : ErrorCoherent State.reset := by
  decide

theorem errorCoherent_fail (e : ErrorCode) {s : State} (hs : ErrorCoherent s) : ErrorCoherent (fail e s) := by
  obtain ⟨hzero, hle⟩ := hs
  cases he : s.err
  · simp [ErrorCoherent, he, errorStatus_ne_zero, errorStatus_le_five]
  · simp_all [ErrorCoherent]

theorem step_keeps_errorCoherent {s t : State} (hs : ErrorCoherent s) (h : step s = .next t) : ErrorCoherent t :=
  step_keeps (P := ErrorCoherent) (fun _ _ hs => hs) (fun _ _ => errorCoherent_reset) (fun e _ => errorCoherent_fail e)
    (fun i s _ _ hs => by simpa [ErrorCoherent] using hs) hs h

/-! ### Sound responses (30_encoding.md R71, 60_exceptions.md R220) -/

/-- Every response given so far is sound. -/
def ResponsesSound (s : State) : Prop := ∀ r ∈ s.responses, ResponseSound r

theorem responseSound_responseWord {st : U8} {data : U16} (hst : st.toNat ≤ 5)
    (hdata : st ≠ 0x00#8 → data = 0x0000#16) : ResponseSound (responseWord st data) := by
  refine ⟨?_, responseWord_reserved st data, ?_⟩ <;> simpa

theorem responsesSound_respond {st : U8} {data : U16} {s : State} (hst : st.toNat ≤ 5)
    (hdata : st ≠ 0x00#8 → data = 0x0000#16) (hs : ResponsesSound s) : ResponsesSound (respond st data s) := by
  intro r hr
  rw [respond_responses, List.mem_append, List.mem_singleton] at hr
  obtain hr | rfl := hr
  · exact hs r hr
  · exact responseSound_responseWord hst hdata

theorem step_keeps_responsesSound {s t : State} (hs : ResponsesSound s) (h : step s = .next t) :
    ResponsesSound t :=
  step_keeps (P := ResponsesSound) (fun _ _ hs => hs) (fun _ hs => hs)
    (fun e _ hs => responsesSound_respond (errorStatus_le_five e) (fun _ => rfl) hs)
    (fun i s _ _ hs => responsesSound_respond (by decide) (absurd rfl) (by simpa [ResponsesSound] using hs)) hs h

/-! ### The whole invariant -/

/-- Settles O20, one step lemma for each part of the invariant. -/
theorem stepKeepsInvariant : Obligations.StepKeepsInvariant := by
  rintro s t ⟨hflags, htable, herror, hresponses⟩ h
  exact ⟨step_keeps_flagsOrdered hflags h, step_keeps_tableBuilt htable h, step_keeps_errorCoherent herror h,
    step_keeps_responsesSound hresponses h⟩

/-- Settles O21: no flag is set, and there is no response yet. -/
theorem resetMeetsInvariant : Obligations.ResetMeetsInvariant :=
  ⟨⟨nofun, nofun⟩, nofun, errorCoherent_reset, nofun⟩

/-- Settles O11: the values 10_state.md R40 states are those of the definition. -/
theorem resetValues : Obligations.ResetValues :=
  ⟨rfl, rfl, rfl, rfl, rfl⟩

end Sys2Proof.Safety

/-! ## Unspecified values cannot be observed (10_state.md R36) -/

namespace Sys2Proof.Safety

open Sys2Proof.Machine

/-! ### Steps by their input -/

theorem step_hardwareReset {s : State} {a : Option CommandWord} {rest : List PortInput}
    (hs : s.inputs = .hardwareReset a :: rest) : step s = .next (hardwareReset { s with inputs := rest }) := by
  rw [step, nextInput_cons hs]

theorem step_decoded {s : State} {w : CommandWord} {i : Instr} {rest : List PortInput}
    (hs : s.inputs = .command w :: rest) (hd : decode w = .ok i) :
    step s = exec i { s with inputs := rest } := by
  rw [step, nextInput_cons hs]
  simp only [hd]

theorem step_rejected {s : State} {w : CommandWord} {r : Reject} {rest : List PortInput}
    (hs : s.inputs = .command w :: rest) (hd : decode w = .error r) :
    step s = .next (fail (rejectError r) { s with inputs := rest }) := by
  rw [step, nextInput_cons hs]
  simp only [hd]

theorem step_idle {s : State} (hs : s.inputs = []) : step s = .next s := by
  rw [step, nextInput_nil hs]

/-! ### Two states that agree on all that holds a value -/

namespace AgreeOnValues

variable {s s' : State}

theorem missing_eq (h : AgreeOnValues s s') (n : Need) : missing n s = missing n s' := by
  obtain ⟨hcfg, htab, hdig, -⟩ := h
  cases n <;> simp only [missing, hcfg, htab, hdig]

theorem inputs_eq (h : AgreeOnValues s s') : s.inputs = s'.inputs := by
  obtain ⟨-, -, -, -, -, hin, -⟩ := h
  exact hin

theorem tableValid_eq (h : AgreeOnValues s s') : s.tableValid = s'.tableValid := by
  obtain ⟨-, htab, -⟩ := h
  exact htab

theorem configuration_eq (h : AgreeOnValues s s') (hc : s.cfgValid = true) :
    s.poly = s'.poly ∧ s.init = s'.init ∧ s.finxor = s'.finxor ∧ s.bitrev = s'.bitrev ∧ s.bigend = s'.bigend := by
  obtain ⟨-, -, -, -, -, -, -, hconf, -⟩ := h
  exact hconf hc

theorem table_eq (h : AgreeOnValues s s') (ht : s.tableValid = true) : s.table = s'.table := by
  obtain ⟨-, -, -, -, -, -, -, -, htable, -⟩ := h
  exact htable ht

theorem crc_eq (h : AgreeOnValues s s') (hd : s.digestValid = true) : s.crc = s'.crc := by
  obtain ⟨-, -, -, -, -, -, -, -, -, hcrc⟩ := h
  exact hcrc hd

/-- STATUS holds a value in every state. -/
theorem statusView_eq (h : AgreeOnValues s s') : statusView s = statusView s' := by
  obtain ⟨hcfg, htab, hdig, herr, hcode, -⟩ := h
  simp only [statusView, hcfg, htab, hdig, herr, hcode]

/-! The shared operations keep the agreement. -/

theorem with_inputs (h : AgreeOnValues s s') (l : List PortInput) :
    AgreeOnValues { s with inputs := l } { s' with inputs := l } := by
  obtain ⟨hcfg, htab, hdig, herr, hcode, -, hres, hval⟩ := h
  exact ⟨hcfg, htab, hdig, herr, hcode, rfl, hres, hval⟩

theorem respond (h : AgreeOnValues s s') (st : U8) (data : U16) :
    AgreeOnValues (respond st data s) (respond st data s') := by
  obtain ⟨hcfg, htab, hdig, herr, hcode, hin, hres, hval⟩ := h
  exact ⟨hcfg, htab, hdig, herr, hcode, hin, by simp [hres], hval⟩

theorem fail (h : AgreeOnValues s s') (e : ErrorCode) : AgreeOnValues (fail e s) (fail e s') := by
  obtain ⟨hcfg, htab, hdig, herr, hcode, hin, hres, hval⟩ := h
  exact ⟨hcfg, htab, hdig, rfl, by simp [herr, hcode], hin, by simp [hres], hval⟩

theorem hardwareReset (h : AgreeOnValues s s') : AgreeOnValues (hardwareReset s) (hardwareReset s') := by
  obtain ⟨-, -, -, -, -, hin, hres, -⟩ := h
  exact ⟨rfl, rfl, rfl, rfl, rfl, hin, hres, nofun, nofun, nofun⟩

theorem newConfiguration (h : AgreeOnValues s s') (a : Attributes) :
    AgreeOnValues (newConfiguration a s) (newConfiguration a s') := by
  obtain ⟨-, -, -, herr, hcode, hin, hres, -⟩ := h
  exact ⟨rfl, rfl, rfl, herr, hcode, hin, hres, fun _ => ⟨rfl, rfl, rfl, rfl, rfl⟩, nofun, nofun⟩

/-- The build reads POLY and BITREV, which hold a value in a configured block. -/
theorem ensureTable (h : AgreeOnValues s s') (hc : s.cfgValid = true) :
    AgreeOnValues (ensureTable s) (ensureTable s') := by
  cases hv : s.tableValid
  · rw [ensureTable_of_not_valid hv, ensureTable_of_not_valid (h.tableValid_eq ▸ hv)]
    obtain ⟨hpoly, -, -, hbitrev, -⟩ := h.configuration_eq hc
    obtain ⟨hcfg, -, hdig, herr, hcode, hin, hres, hconf, -, hcrc⟩ := h
    exact ⟨hcfg, rfl, hdig, herr, hcode, hin, hres, hconf, fun _ => by simp [hpoly, hbitrev], hcrc⟩
  · rwa [ensureTable_of_valid hv, ensureTable_of_valid (h.tableValid_eq ▸ hv)]

theorem with_crc (h : AgreeOnValues s s') {v v' : U16} (hv : v = v') :
    AgreeOnValues { s with crc := v } { s' with crc := v' } := by
  obtain ⟨hcfg, htab, hdig, herr, hcode, hin, hres, hconf, htable, -⟩ := h
  exact ⟨hcfg, htab, hdig, herr, hcode, hin, hres, hconf, htable, fun _ => hv⟩

theorem startDigest (h : AgreeOnValues s s') (hc : s.cfgValid = true) {v v' : U16} (hv : v = v') :
    AgreeOnValues (startDigest v s) (startDigest v' s') := by
  obtain ⟨hcfg, htab, -, herr, hcode, hin, hres, hconf, htable, -⟩ := h.ensureTable hc
  exact ⟨hcfg, htab, rfl, herr, hcode, hin, hres, hconf, htable, fun _ => hv⟩

/-- A WRITE reads TABLE, BITREV and CRC: a Digest exists only over a built table and a Configuration
(10_state.md R31). -/
theorem foldSeq_eq (h : AgreeOnValues s s') (hf : FlagsOrdered s) (hm : missing .digest s = none)
    (bytes : List U8) :
    foldSeq s.table s.bitrev s.crc bytes = foldSeq s'.table s'.bitrev s'.crc bytes := by
  obtain ⟨hc, hd⟩ := missing_digest_eq_none.mp hm
  obtain ⟨-, -, -, hbitrev, -⟩ := h.configuration_eq hc
  obtain ⟨hdt, -⟩ := hf
  rw [h.table_eq (hdt hd), hbitrev, h.crc_eq hd]

/-! ### Commands -/

/-- A command whose checks pass answers the same DATA on both states: it reads only what its checks guard. -/
theorem dataOf_eq {i : Instr} (h : AgreeOnValues s s') (hm : missing (needOf i) s = none) :
    dataOf i s = dataOf i s' := by
  cases i
  case ensure => simp only [dataOf, ensureBuilds, h.tableValid_eq]
  case sum16 | sumb =>
    obtain ⟨hc, hd⟩ := missing_digest_eq_none.mp hm
    obtain ⟨-, -, hfinxor, -, hbigend⟩ := h.configuration_eq hc
    simp only [dataOf, h.crc_eq hd, hfinxor, hbigend]
  case rdtab =>
    obtain ⟨-, ht⟩ := missing_table_eq_none.mp hm
    simp only [dataOf, h.table_eq ht]
  case rdstStatus => exact h.statusView_eq
  case rdstPoly | rdstInit | rdstFinxor | rdstMode =>
    obtain ⟨hpoly, hinit, hfinxor, hbitrev, hbigend⟩ := h.configuration_eq (missing_config_eq_none.mp hm)
    simp only [dataOf, modeView, hpoly, hinit, hfinxor, hbitrev, hbigend]
  case rdstCrc =>
    obtain ⟨-, hd⟩ := missing_digest_eq_none.mp hm
    exact h.crc_eq hd
  all_goals rfl

/-- A command whose checks pass takes agreeing states to agreeing states. -/
theorem effectOf {i : Instr} (h : AgreeOnValues s s') (hf : FlagsOrdered s) (hw : i.wf = true)
    (hm : missing (needOf i) s = none) : AgreeOnValues (effectOf i s) (effectOf i s') := by
  cases i
  case cfg => exact h.newConfiguration _
  case cfgp sel =>
    obtain ⟨a, ha⟩ := preset_of_legal hw
    simpa only [Machine.effectOf, ha] using h.newConfiguration a
  case ensure => exact h.ensureTable (missing_config_eq_none.mp hm)
  case create =>
    have hc := missing_config_eq_none.mp hm
    obtain ⟨-, hinit, -⟩ := h.configuration_eq hc
    exact h.startDigest hc hinit
  case loadcrc => exact h.startDigest (missing_config_eq_none.mp hm) rfl
  case reset =>
    obtain ⟨hc, -⟩ := missing_digest_eq_none.mp hm
    obtain ⟨-, hinit, -⟩ := h.configuration_eq hc
    exact h.with_crc hinit
  case write0 | write1 | write2 | write3 | write4 | write5 | write6 => exact h.with_crc (h.foldSeq_eq hf hm _)
  all_goals exact h

/-- Any command, failing or not, takes agreeing states to agreeing states. -/
theorem exec {i : Instr} {t : State} (h : AgreeOnValues s s') (hf : FlagsOrdered s)
    (he : exec i s = .next t) : ∃ t', exec i s' = .next t' ∧ AgreeOnValues t t' := by
  cases hw : i.wf
  · rw [exec_reserved hw] at he
    cases he
    exact ⟨_, exec_reserved hw s', h.fail .rsvd⟩
  · rw [exec_eq hw] at he
    simp only [exec_eq hw]
    obtain ⟨hm, rfl⟩ | ⟨e, hm, rfl⟩ := perform_cases he
    · refine ⟨_, perform_of_none (h.missing_eq _ ▸ hm), ?_⟩
      rw [← h.dataOf_eq hm]
      exact (h.effectOf hf hw hm).respond _ _
    · exact ⟨_, perform_of_some (h.missing_eq _ ▸ hm), h.fail e⟩

end AgreeOnValues

/-- Settles O24: both states take the same input, and every operation keeps the agreement. -/
theorem unspecifiedValuesNeverReachResponses : Obligations.UnspecifiedValuesNeverReachResponses := by
  intro s s' t hf h hstep
  have hin := h.inputs_eq
  obtain ⟨hs, rfl⟩ | ⟨a, rest, hs, rfl⟩ | ⟨w, rest, i, hs, hd, he⟩ | ⟨w, rest, r, hs, hd, rfl⟩ := step_cases hstep
  · exact ⟨s', step_idle (hin ▸ hs), h⟩
  · exact ⟨_, step_hardwareReset (hin ▸ hs), (h.with_inputs rest).hardwareReset⟩
  · rw [step_decoded (hin ▸ hs) hd]
    exact (h.with_inputs rest).exec hf he
  · exact ⟨_, step_rejected (hin ▸ hs) hd, (h.with_inputs rest).fail _⟩

end Sys2Proof.Safety

/-! ## The read views STATUS and MODE (10_state.md R34, R24) -/

namespace Sys2Proof.Machine

/-- Every bit of STATUS. -/
theorem getLsbD_statusView (s : State) (i : Nat) :
    (statusView s).getLsbD i =
      if i = 0 then s.cfgValid else if i = 1 then s.tableValid else if i = 2 then s.digestValid
      else if i = 3 then s.err else if i < 8 then false else s.errcode.getLsbD (i - 8) := by
  change BitVec.getLsbD (w := 8 + 4 + 1 + 1 + 1 + 1) (s.errcode ++ 0#4 ++ BitVec.ofBool s.err ++
    BitVec.ofBool s.digestValid ++ BitVec.ofBool s.tableValid ++ BitVec.ofBool s.cfgValid) i = _
  simp only [BitVec.getLsbD_append, BitVec.getLsbD_ofBool]
  rcases i with _ | _ | _ | _ | i
  · simp
  · simp
  · simp
  · simp
  · by_cases hi : i < 4 <;> simp [hi, Nat.le_of_not_lt]

/-- Every bit of MODE. -/
theorem getLsbD_modeView (s : State) (i : Nat) :
    (modeView s).getLsbD i = if i = 0 then s.bitrev else if i = 1 then s.bigend else false := by
  change BitVec.getLsbD (w := 14 + 1 + 1) (0#14 ++ BitVec.ofBool s.bigend ++ BitVec.ofBool s.bitrev) i = _
  simp only [BitVec.getLsbD_append, BitVec.getLsbD_ofBool]
  rcases i with _ | _ | i <;> simp

theorem statusView_reserved (s : State) : (statusView s).extractLsb' 4 4 = 0#4 := by
  apply BitVec.eq_of_getLsbD_eq
  intro i hi
  simp [getLsbD_statusView, Nat.add_comm 4 i, hi]

theorem statusView_errcode (s : State) : (statusView s).extractLsb' 8 8 = s.errcode := by
  apply BitVec.eq_of_getLsbD_eq
  intro i hi
  simp [getLsbD_statusView, Nat.add_comm 8 i, hi]

theorem modeView_reserved (s : State) : (modeView s).extractLsb' 2 14 = 0#14 := by
  apply BitVec.eq_of_getLsbD_eq
  intro i hi
  simp [getLsbD_modeView, Nat.add_comm 2 i]

/-- Settles O53, from the bits of the two views. -/
theorem statusAndModeLayout : Obligations.StatusAndModeLayout :=
  fun s => ⟨⟨getLsbD_statusView s 0, getLsbD_statusView s 1, getLsbD_statusView s 2, getLsbD_statusView s 3,
      statusView_reserved s, statusView_errcode s⟩,
    getLsbD_modeView s 0, getLsbD_modeView s 1, modeView_reserved s⟩

end Sys2Proof.Machine

/-! # Commands on the port: repetition, several hosts, byte order (20_memory.md) -/

/-! ## A command taken off the port (20_memory.md R62) -/

namespace Sys2Proof.Safety

open Sys2Proof.Machine

/-- Settles O9: a word that decodes is run on the state without it. -/
theorem stepRunsDecodedCommand : Obligations.StepRunsDecodedCommand :=
  fun _ _ _ _ hs hd _ => step_decoded hs hd

end Sys2Proof.Safety

/-! ## The output byte order (20_memory.md R54, 43_finalization.md R180) -/

namespace Sys2Proof.Machine

@[simp] theorem highByte_joinBytes (hi lo : U8) : highByte (joinBytes hi lo) = hi := by
  apply BitVec.eq_of_toNat_eq
  rw [toNat_highByte, toNat_joinBytes]
  omega

@[simp] theorem lowByte_joinBytes (hi lo : U8) : lowByte (joinBytes hi lo) = lo := by
  apply BitVec.eq_of_toNat_eq
  rw [toNat_lowByte, toNat_joinBytes]
  omega

theorem highByte_swapMux (v : U16) (bigend : Bool) :
    highByte (swapMux v bigend) = if bigend then highByte v else lowByte v := by
  cases bigend <;> simp [swapMux]

theorem lowByte_swapMux (v : U16) (bigend : Bool) :
    lowByte (swapMux v bigend) = if bigend then lowByte v else highByte v := by
  cases bigend <;> simp [swapMux]

end Sys2Proof.Machine

namespace Sys2Proof.Safety

open Sys2Proof.Machine

/-- A legal command whose checks pass has its effect and answers with its DATA. -/
theorem exec_of_missing_eq_none {i : Instr} {s : State} (hw : i.wf = true) (hm : missing (needOf i) s = none) :
    exec i s = .next (respondOk (dataOf i s) (effectOf i s)) := by
  rw [exec_eq hw, perform_of_none hm]

/-- Settles O49: the answer is the finalized value through the byte-swap mux. -/
theorem sumbReturnsOrderedBytes : Obligations.SumbReturnsOrderedBytes :=
  fun _ hc hd => ⟨_, exec_of_missing_eq_none rfl (missing_digest_eq_none.mpr ⟨hc, hd⟩),
    highByte_swapMux _ _, lowByte_swapMux _ _⟩

end Sys2Proof.Safety

/-! ## Repeating a command (20_memory.md R61) -/

namespace Sys2Proof.Safety

open Sys2Proof.Machine

/-! ### Checks and effects do not read the responses -/

@[simp] theorem missing_fail (n : Need) (e : ErrorCode) (s : State) : missing n (fail e s) = missing n s := by
  cases n <;> rfl

@[simp] theorem missing_respondOk (n : Need) (data : U16) (s : State) :
    missing n (respondOk data s) = missing n s := by
  cases n <;> rfl

theorem ensureTable_respondOk (data : U16) (s : State) :
    ensureTable (respondOk data s) = respondOk data (ensureTable s) := by
  cases hv : s.tableValid
  · rw [ensureTable_of_not_valid hv, ensureTable_of_not_valid (s := respondOk data s) hv]
    rfl
  · rw [ensureTable_of_valid hv, ensureTable_of_valid (s := respondOk data s) hv]

theorem startDigest_respondOk (value data : U16) (s : State) :
    startDigest value (respondOk data s) = respondOk data (startDigest value s) := by
  rw [startDigest, ensureTable_respondOk]
  rfl

theorem effectOf_respondOk (i : Instr) (data : U16) (s : State) :
    effectOf i (respondOk data s) = respondOk data (effectOf i s) := by
  cases i
  case cfgp sel =>
    simp only [effectOf]
    cases preset sel <;> rfl
  case ensure => exact ensureTable_respondOk data s
  case create | loadcrc => exact startDigest_respondOk _ data s
  all_goals rfl

/-! ### What a command needs and does, after it has succeeded once -/

/-- A command that succeeds does not take away what it needs. -/
theorem missing_effectOf {i : Instr} {s : State} (hm : missing (needOf i) s = none) :
    missing (needOf i) (effectOf i s) = none := by
  cases i
  case cfg | cfgp => rfl
  case ensure =>
    rw [effectOf, ensureTable_eq]
    exact hm
  case create | loadcrc =>
    rw [effectOf, startDigest_eq]
    exact hm
  all_goals exact hm

theorem ensureTable_ensureTable (s : State) : ensureTable (ensureTable s) = ensureTable s :=
  ensureTable_of_valid (ensureTable_tableValid s)

theorem startDigest_startDigest (value value' : U16) (s : State) :
    startDigest value' (startDigest value s) = startDigest value' s := by
  have hv : (startDigest value s).tableValid = true := ensureTable_tableValid s
  rw [startDigest_of_valid _ hv, startDigest_eq, startDigest_eq]

/-- A command that folds no byte has the same effect twice as once. -/
theorem effectOf_effectOf {i : Instr} (hb : dataBytes i = []) (s : State) :
    effectOf i (effectOf i s) = effectOf i s := by
  cases i
  case cfgp sel =>
    simp only [effectOf]
    cases preset sel <;> rfl
  case ensure => exact ensureTable_ensureTable s
  case create =>
    have hinit : (startDigest s.init s).init = s.init := by rw [startDigest_eq]
    simp only [effectOf, hinit, startDigest_startDigest]
  case loadcrc imm => exact startDigest_startDigest imm imm s
  case write1 | write2 | write3 | write4 | write5 | write6 => cases hb
  all_goals rfl

/-! ### A command run twice -/

/-- A reserved command fails both times. -/
theorem exec_twice_of_reserved {i : Instr} {s t u : State} (hw : i.wf = false) (ht : exec i s = .next t)
    (hu : exec i t = .next u) : u = { t with responses := u.responses } := by
  rw [exec_reserved hw] at ht hu
  cases ht
  cases hu
  rfl

/-- A command whose first run fails a check fails the same check again, and the first code stays. -/
theorem exec_twice_of_failure {i : Instr} {s t u : State} {e : ErrorCode} (hw : i.wf = true)
    (hm : missing (needOf i) s = some e) (ht : exec i s = .next t) (hu : exec i t = .next u) :
    u = { t with responses := u.responses } := by
  rw [exec_eq hw, perform_of_some hm] at ht
  cases ht
  rw [exec_eq hw, perform_of_some (by rwa [missing_fail])] at hu
  cases hu
  rfl

/-- A command whose first run passes its checks passes them again, and its effect is already there. -/
theorem exec_twice_of_success {i : Instr} {s t u : State} (hb : dataBytes i = []) (hw : i.wf = true)
    (hm : missing (needOf i) s = none) (ht : exec i s = .next t) (hu : exec i t = .next u) :
    u = { t with responses := u.responses } := by
  rw [exec_of_missing_eq_none hw hm] at ht
  cases ht
  rw [exec_of_missing_eq_none hw (by rw [missing_respondOk, missing_effectOf hm]), effectOf_respondOk,
    effectOf_effectOf hb] at hu
  cases hu
  rfl

theorem exec_twice {i : Instr} {s t u : State} (hb : dataBytes i = []) (ht : exec i s = .next t)
    (hu : exec i t = .next u) : u = { t with responses := u.responses } := by
  cases hw : i.wf
  · exact exec_twice_of_reserved hw ht hu
  · cases hm : missing (needOf i) s with
    | none => exact exec_twice_of_success hb hw hm ht hu
    | some e => exact exec_twice_of_failure hw hm ht hu

/-! ### A command that writes nothing -/

theorem ClassEffect.eq_of_nothing {s u : State} (h : ClassEffect s .nothing u) : u = s := by
  cases h
  rfl

/-- A failure does not answer with status 0. -/
theorem fail_responses_ne (e : ErrorCode) (s : State) (data : U16) :
    (fail e s).responses ≠ s.responses ++ [responseWord 0x00#8 data] := by
  intro h
  have hr : responseWord (errorStatus e) 0x0000#16 = responseWord 0x00#8 data := by simpa using h
  have hst := congrArg responseStatus hr
  rw [responseStatus_responseWord, responseStatus_responseWord] at hst
  exact errorStatus_ne_zero e hst

theorem exec_nothing_of_success {i : Instr} {s t : State} {data : U16} (hc : writeClass i = .nothing)
    (h : exec i s = .next t) (hr : t.responses = s.responses ++ [responseWord 0x00#8 data]) :
    t = { s with responses := t.responses } := by
  obtain ⟨e, rfl⟩ | ⟨hw, hm, rfl⟩ := exec_cases h
  · exact absurd hr (fail_responses_ne e s data)
  · have he := classEffect_effectOf hw hm
    rw [hc] at he
    rw [he.eq_of_nothing]
    rfl

/-- Settles O55: the second run meets the same checks and finds the effect there; a command of the class `nothing` has
none. -/
theorem repeatingLeavesSameState : Obligations.RepeatingLeavesSameState :=
  ⟨fun _ _ _ _ hb ht hu => exec_twice hb ht hu, fun _ _ _ _ hc h hr => exec_nothing_of_success hc h hr⟩

end Sys2Proof.Safety

/-! ## Several hosts on one port (20_memory.md R64) -/

namespace Sys2Proof.Machine

/-- The commands of one host in a merged sequence, in order. -/
def commandsOf (h : Nat) (merged : List (Nat × CommandWord)) : List CommandWord :=
  (merged.filter fun c => c.1 == h).map Prod.snd

@[simp] theorem commandsOf_nil (h : Nat) : commandsOf h [] = [] := rfl

theorem commandsOf_cons (h k : Nat) (w : CommandWord) (merged : List (Nat × CommandWord)) :
    commandsOf k ((h, w) :: merged) = if h = k then w :: commandsOf k merged else commandsOf k merged := by
  by_cases hk : h = k <;> simp [commandsOf, hk]

/-! ### A turn of a host -/

/-- A turn of a host with a command left takes that command. -/
theorem mergeHosts_of_command {h : Nat} {queues : List (List CommandWord)} {w : CommandWord}
    {rest : List CommandWord} (hq : queues[h]? = some (w :: rest)) (order : List Nat) :
    mergeHosts (h :: order) queues = (h, w) :: mergeHosts order (queues.set h rest) := by
  simp only [mergeHosts, hq]

/-- What the hosts have left after one command of host `h`. -/
theorem getD_set_rest {h : Nat} {queues : List (List CommandWord)} {w : CommandWord} {rest : List CommandWord}
    (hq : queues[h]? = some (w :: rest)) (k : Nat) :
    (queues.set h rest).getD k [] = if h = k then rest else queues.getD k [] := by
  obtain ⟨hlt, -⟩ := List.getElem?_eq_some_iff.mp hq
  rw [List.getD_eq_getElem?_getD, List.getD_eq_getElem?_getD, List.getElem?_set]
  split <;> simp_all

/-- The queue of a host that has a command left. -/
theorem getElem?_of_getD_cons {h : Nat} {queues : List (List CommandWord)} {w : CommandWord}
    {rest : List CommandWord} (hq : queues.getD h [] = w :: rest) : queues[h]? = some (w :: rest) := by
  rw [List.getD_eq_getElem?_getD] at hq
  cases he : queues[h]? <;> simp_all

/-- Each host's commands in the merged sequence are the first ones of its queue. -/
theorem commandsOf_mergeHosts_prefix (order : List Nat) (queues : List (List CommandWord)) (k : Nat) :
    commandsOf k (mergeHosts order queues) <+: queues.getD k [] := by
  induction order, queues using mergeHosts.induct with
  | case1 queues => exact List.nil_prefix
  | case2 h order queues w rest hq ih =>
    rw [mergeHosts_of_command hq, commandsOf_cons]
    rw [getD_set_rest hq] at ih
    by_cases hk : h = k
    · subst hk
      rw [if_pos rfl] at ih ⊢
      rw [List.getD_eq_getElem?_getD, hq]
      exact (List.prefix_cons_inj w).mpr ih
    · rwa [if_neg hk] at ih ⊢
  | case3 h order queues hq ih =>
    rw [mergeHosts]
    split
    · next w rest he => exact absurd he (hq w rest)
    · exact ih

/-- A sequence in which every host's commands are its whole queue is the merge its own order of hosts gives. -/
theorem mergeHosts_hosts_of_interleaving {merged : List (Nat × CommandWord)} :
    ∀ {queues : List (List CommandWord)}, (∀ k, commandsOf k merged = queues.getD k []) →
      mergeHosts (merged.map Prod.fst) queues = merged := by
  induction merged with
  | nil => exact fun _ => rfl
  | cons c merged ih =>
    obtain ⟨h, w⟩ := c
    intro queues hall
    have hq : queues[h]? = some (w :: commandsOf h merged) := by
      apply getElem?_of_getD_cons
      rw [← hall, commandsOf_cons, if_pos rfl]
    have hrest : ∀ k, commandsOf k merged = (queues.set h (commandsOf h merged)).getD k [] := by
      intro k
      rw [getD_set_rest hq]
      by_cases hk : h = k
      · rw [if_pos hk, hk]
      · rw [if_neg hk, ← hall, commandsOf_cons, if_neg hk]
    rw [List.map_cons, mergeHosts_of_command hq, ih hrest]

end Sys2Proof.Machine

namespace Sys2Proof.Safety

open Sys2Proof.Machine

/-- Settles O57, by induction on the order of the hosts' turns. -/
theorem hostsKeepTheirOrder : Obligations.HostsKeepTheirOrder :=
  fun order queues h => commandsOf_mergeHosts_prefix order queues h

/-- Settles O58, by induction on the interleaving, each command taken from its host's queue. -/
theorem everyInterleavingIsAdmitted : Obligations.EveryInterleavingIsAdmitted :=
  fun _ _ hall => mergeHosts_hosts_of_interleaving hall

end Sys2Proof.Safety

/-! # Command words: the decoder, the encoder and the assembler (30_encoding.md) -/

/-! ## The fields of a command word as numbers (R70) -/

namespace Sys2Proof

theorem toNat_opcodeField (w : CommandWord) : (opcodeField w).toNat = w.toNat / 2 ^ 56 := by
  have := w.isLt
  simp only [opcodeField, BitVec.extractLsb'_toNat, Nat.shiftRight_eq_div_pow]
  omega

theorem toNat_flagsField (w : CommandWord) : (flagsField w).toNat = w.toNat / 2 ^ 48 % 2 ^ 8 := by
  simp only [flagsField, BitVec.extractLsb'_toNat, Nat.shiftRight_eq_div_pow]

theorem toNat_payloadField (w : CommandWord) : (payloadField w).toNat = w.toNat % 2 ^ 48 := by
  simp only [payloadField, BitVec.extractLsb'_toNat, Nat.shiftRight_zero]

theorem toNat_dataByte (w : CommandWord) (j : Nat) :
    (dataByte w j).toNat = w.toNat / 2 ^ (40 - 8 * j) % 2 ^ 8 := by
  simp only [dataByte, BitVec.extractLsb'_toNat, Nat.shiftRight_eq_div_pow]

/-! ### The fields that must be zero, as the decoder checks them (R72, R84) -/

theorem flagsField_eq_zero_iff {w : CommandWord} : flagsField w = 0 ↔ w.toNat / 2 ^ 48 % 2 ^ 8 = 0 := by
  rw [← toNat_flagsField, BitVec.toNat_eq]
  rfl

theorem payloadField_eq_zero_iff {w : CommandWord} : payloadField w = 0 ↔ w.toNat % 2 ^ 48 = 0 := by
  rw [← toNat_payloadField, BitVec.toNat_eq]
  rfl

/-- F[7:2] is zero when F is below 4. -/
theorem extractLsb'_flags_eq_zero_iff {f : U8} : f.extractLsb' 2 6 = 0#6 ↔ f.toNat < 4 := by
  rw [BitVec.toNat_eq, BitVec.extractLsb'_toNat, Nat.shiftRight_eq_div_pow, BitVec.toNat_ofNat]
  have := f.isLt
  omega

/-- A and B are zero when P is below 2^16. -/
theorem fieldsAB_eq_zero_iff {w : CommandWord} : fieldA w = 0 ∧ fieldB w = 0 ↔ w.toNat % 2 ^ 48 < 2 ^ 16 := by
  rw [BitVec.toNat_eq, BitVec.toNat_eq, fieldA, fieldB, BitVec.extractLsb'_toNat, BitVec.extractLsb'_toNat,
    Nat.shiftRight_eq_div_pow, Nat.shiftRight_eq_div_pow]
  simp only [BitVec.ofNat_eq_ofNat, BitVec.toNat_ofNat]
  omega

/-- The unused bytes of a WRITE are P modulo 2^(48-8k). -/
theorem unusedBytesZero_iff_mod {w : CommandWord} {k : Nat} :
    unusedBytesZero w k = true ↔ w.toNat % 2 ^ 48 % 2 ^ (48 - 8 * k) = 0 := by
  rw [unusedBytesZero, beq_iff_eq, BitVec.toNat_eq, BitVec.extractLsb'_toNat, Nat.shiftRight_zero,
    Nat.mod_mod_of_dvd _ (Nat.pow_dvd_pow 2 (Nat.sub_le 48 (8 * k)))]
  simp

/-- The unused bytes of a WRITE are its data bytes from the count on (R76). -/
theorem unusedBytesZero_iff_dataByte {w : CommandWord} {k : Nat} :
    unusedBytesZero w k = true ↔ ∀ j < 6, k ≤ j → dataByte w j = 0 := by
  rw [unusedBytesZero_iff]
  constructor
  · intro h j hj hk
    apply BitVec.eq_of_getLsbD_eq
    intro i hi
    simp [dataByte, h (40 - 8 * j + i) (by omega)]
  · intro h i hi
    have hb := congrArg (fun d => BitVec.getLsbD d (i % 8)) (h (5 - i / 8) (by omega) (by omega))
    simpa [dataByte, Nat.mod_lt, show 40 - 8 * (5 - i / 8) + i % 8 = i by omega] using hb

end Sys2Proof

/-! ## Decoding an encoded command (R72 to R77, R84) -/

namespace Sys2Proof

open Sys2Proof.Machine Sys2Proof.Safety

/-! ### Format by format, the fields of the packed word come back -/

theorem decodeN_packWord (o : U8) (i : Instr) : decodeN (packWord o 0#8 0#48) i = .ok i := by
  rw [decodeN, flagsField_packWord, payloadField_packWord]
  rfl

theorem decodeImm_packWord (o : U8) (i : U16 → Instr) (imm : U16) :
    decodeImm (packWord o 0#8 (packABC 0#16 0#16 imm)) i = .ok (i imm) := by
  rw [decodeImm, flagsField_packWord, fieldA_packABC, fieldB_packABC, fieldC_packABC]
  rfl

/-- The bits of F in a CFG word. -/
theorem packModeFlags_bits (bitrev bigend : Bool) :
    (packModeFlags bitrev bigend).extractLsb' 2 6 = 0 ∧ (packModeFlags bitrev bigend).getLsbD 0 = bitrev ∧
      (packModeFlags bitrev bigend).getLsbD 1 = bigend := by
  cases bitrev <;> cases bigend <;> decide

theorem decodeCfg_packWord (o : U8) (poly init finxor : U16) (bitrev bigend : Bool) :
    decodeCfg (packWord o (packModeFlags bitrev bigend) (packABC poly init finxor)) =
      .ok (.cfg poly init finxor bitrev bigend) := by
  obtain ⟨hhigh, hbitrev, hbigend⟩ := packModeFlags_bits bitrev bigend
  rw [decodeCfg, flagsField_packWord, hhigh, hbitrev, hbigend, fieldA_packABC, fieldB_packABC, fieldC_packABC]
  rfl

theorem decodeCfgp_packWord (o : U8) {sel : U8} (h : legalPreset sel = true) :
    decodeCfgp (packWord o sel 0#48) = .ok (.cfgp sel) := by
  rw [decodeCfgp, flagsField_packWord, payloadField_packWord, h]
  rfl

theorem decodeRdtab_packWord (o idx : U8) : decodeRdtab (packWord o idx 0#48) = .ok (.rdtab idx) := by
  rw [decodeRdtab, flagsField_packWord, payloadField_packWord]
  rfl

/-! ### The word of a WRITE, for every count at once (R76) -/

theorem wf_of_isWrite {i : Instr} (h : isWrite i = true) : i.wf = true := by
  cases i
  case write0 | write1 | write2 | write3 | write4 | write5 | write6 => rfl
  all_goals cases h

theorem length_dataBytes_le (i : Instr) : (dataBytes i).length ≤ 6 := by
  cases i <;> simp [dataBytes]

theorem encode_of_isWrite {i : Instr} (h : isWrite i = true) :
    encode i = packWord 0x07#8 (BitVec.ofNat 8 (dataBytes i).length)
      (packBytes ((dataBytes i).getD 0 0#8) ((dataBytes i).getD 1 0#8) ((dataBytes i).getD 2 0#8)
        ((dataBytes i).getD 3 0#8) ((dataBytes i).getD 4 0#8) ((dataBytes i).getD 5 0#8)) := by
  cases i
  case write0 | write1 | write2 | write3 | write4 | write5 | write6 => rfl
  all_goals cases h

theorem opcodeField_encode_of_isWrite {i : Instr} (h : isWrite i = true) : opcodeField (encode i) = 0x07#8 := by
  rw [encode_of_isWrite h, opcodeField_packWord]

theorem flagsField_encode_of_isWrite {i : Instr} (h : isWrite i = true) :
    flagsField (encode i) = BitVec.ofNat 8 (dataBytes i).length := by
  rw [encode_of_isWrite h, flagsField_packWord]

theorem dataByte_encode_of_isWrite {i : Instr} (h : isWrite i = true) {j : Nat} (hj : j < 6) :
    dataByte (encode i) j = (dataBytes i).getD j 0#8 := by
  rw [encode_of_isWrite h]
  obtain ⟨h0, h1, h2, h3, h4, h5⟩ := dataByte_packBytes 0x07#8 (BitVec.ofNat 8 (dataBytes i).length)
    ((dataBytes i).getD 0 0#8) ((dataBytes i).getD 1 0#8) ((dataBytes i).getD 2 0#8)
    ((dataBytes i).getD 3 0#8) ((dataBytes i).getD 4 0#8) ((dataBytes i).getD 5 0#8)
  interval_cases j <;> assumption

theorem unusedBytesZero_encode_of_isWrite {i : Instr} (h : isWrite i = true) :
    unusedBytesZero (encode i) (dataBytes i).length = true := by
  rw [unusedBytesZero_iff_dataByte]
  intro j hj hk
  rw [dataByte_encode_of_isWrite h hj]
  exact List.getD_eq_default _ _ hk

theorem decode_encode_of_isWrite {i : Instr} (h : isWrite i = true) : decode (encode i) = .ok i := by
  have ho := opcodeField_encode_of_isWrite h
  have hf := flagsField_encode_of_isWrite h
  have hu := unusedBytesZero_encode_of_isWrite h
  have hd := fun j => dataByte_encode_of_isWrite h (j := j)
  cases i
  case write0 | write1 | write2 | write3 | write4 | write5 | write6 =>
    simp_all [decode, decodeWrite, dataBytes, unlessReserved]
  all_goals cases h

/-! ### Every legal command -/

theorem decode_encode {i : Instr} (h : i.wf = true) : decode (encode i) = .ok i := by
  cases i
  case cfg => simp [decode, encode, decodeCfg_packWord]
  case cfgp sel => simp [decode, encode, decodeCfgp_packWord _ h]
  case loadcrc | rev16 => simp [decode, encode, decodeImm_packWord]
  case write0 | write1 | write2 | write3 | write4 | write5 | write6 => exact decode_encode_of_isWrite rfl
  case rdtab => simp [decode, encode, decodeRdtab_packWord]
  case rdstStatus | rdstPoly | rdstInit | rdstFinxor | rdstMode | rdstCrc =>
    simp [decode, encode, decodeRdst, unlessReserved]
  all_goals simp [decode, encode, decodeN_packWord]

end Sys2Proof

namespace Sys2Proof.Safety

/-- Settles O1: format by format, each field of the packed word comes back. -/
theorem decodeOfEncode : Obligations.DecodeOfEncode :=
  fun _ hw => decode_encode hw

end Sys2Proof.Safety

/-! ## Encoding a decoded command (R80, R81, R84) -/

namespace Sys2Proof

theorem eq_ofNat_of_toNat_eq {f : U8} {n : Nat} (h : f.toNat = n) : f = BitVec.ofNat 8 n := by
  rw [← h, BitVec.ofNat_toNat, BitVec.setWidth_eq]

/-- A word is the one packed from its fields. -/
theorem packWord_of_fields {w : CommandWord} {o f : U8} {p : BitVec 48} (ho : (opcodeField w).toNat = o.toNat)
    (hf : flagsField w = f) (hp : payloadField w = p) : packWord o f p = w := by
  rw [← BitVec.eq_of_toNat_eq ho, ← hf, ← hp, packWord_fields]

/-! ### Format by format, the command and the fields of a word that decodes -/

theorem decodeN_ok {w : CommandWord} {i j : Instr} (h : decodeN w i = .ok j) :
    i = j ∧ flagsField w = 0#8 ∧ payloadField w = 0#48 := by
  obtain ⟨hlegal, hij⟩ := unlessReserved_ok.mp h
  rw [Bool.and_eq_true, beq_iff_eq, beq_iff_eq] at hlegal
  exact ⟨hij, hlegal⟩

theorem decodeImm_ok {w : CommandWord} {i : U16 → Instr} {j : Instr} (h : decodeImm w i = .ok j) :
    i (fieldC w) = j ∧ flagsField w = 0#8 ∧ payloadField w = packABC 0#16 0#16 (fieldC w) := by
  obtain ⟨hlegal, hij⟩ := unlessReserved_ok.mp h
  rw [Bool.and_eq_true, Bool.and_eq_true, beq_iff_eq, beq_iff_eq, beq_iff_eq] at hlegal
  obtain ⟨⟨hf, ha⟩, hb⟩ := hlegal
  exact ⟨hij, hf, by rw [← packABC_fields, ha, hb]; rfl⟩

/-- With F[7:2] zero, F is its two low bits. -/
theorem packModeFlags_of_high_eq_zero {f : U8} (h : f.extractLsb' 2 6 = 0#6) :
    packModeFlags (f.getLsbD 0) (f.getLsbD 1) = f := by
  revert f
  decide

theorem decodeCfg_ok {w : CommandWord} {i : Instr} (h : decodeCfg w = .ok i) :
    i.wf = true ∧ encode i = packWord 0x01#8 (flagsField w) (payloadField w) := by
  obtain ⟨hlegal, rfl⟩ := unlessReserved_ok.mp h
  have hhigh : (flagsField w).extractLsb' 2 6 = 0#6 := beq_iff_eq.mp hlegal
  exact ⟨rfl, by rw [encode, packModeFlags_of_high_eq_zero hhigh, packABC_fields]⟩

theorem decodeCfgp_ok {w : CommandWord} {i : Instr} (h : decodeCfgp w = .ok i) :
    i.wf = true ∧ encode i = packWord 0x02#8 (flagsField w) (payloadField w) := by
  obtain ⟨hlegal, rfl⟩ := unlessReserved_ok.mp h
  rw [Bool.and_eq_true, beq_iff_eq] at hlegal
  obtain ⟨hsel, hp⟩ := hlegal
  exact ⟨hsel, by rw [encode, hp]; rfl⟩

theorem decodeWrite_ok {w : CommandWord} {i : Instr} (h : decodeWrite w = .ok i) :
    i.wf = true ∧ encode i = packWord 0x07#8 (flagsField w) (payloadField w) := by
  rw [← packBytes_fields]
  unfold decodeWrite at h
  split at h
  case h_8 => cases h
  case h_7 hf =>
    cases h
    exact ⟨rfl, by rw [encode, eq_ofNat_of_toNat_eq hf]⟩
  all_goals
    next hf =>
    obtain ⟨hlegal, rfl⟩ := unlessReserved_ok.mp h
    rw [unusedBytesZero_iff_dataByte] at hlegal
    exact ⟨rfl, by simp [encode, hlegal, eq_ofNat_of_toNat_eq hf]⟩

theorem decodeRdtab_ok {w : CommandWord} {i : Instr} (h : decodeRdtab w = .ok i) :
    i.wf = true ∧ encode i = packWord 0x0C#8 (flagsField w) (payloadField w) := by
  obtain ⟨hlegal, rfl⟩ := unlessReserved_ok.mp h
  exact ⟨rfl, by rw [encode, beq_iff_eq.mp hlegal]; rfl⟩

theorem decodeRdst_ok {w : CommandWord} {i : Instr} (h : decodeRdst w = .ok i) :
    i.wf = true ∧ encode i = packWord 0x0D#8 (flagsField w) (payloadField w) := by
  unfold decodeRdst at h
  split at h
  case h_7 => cases h
  all_goals
    next hf =>
    obtain ⟨hlegal, rfl⟩ := unlessReserved_ok.mp h
    rw [eq_ofNat_of_toNat_eq hf, beq_iff_eq.mp hlegal]
    exact ⟨rfl, rfl⟩

/-! ### Every word that decodes -/

theorem wf_and_encode_of_decode {w : CommandWord} {i : Instr} (h : decode w = .ok i) :
    i.wf = true ∧ encode i = w := by
  unfold decode at h
  split at h
  case h_1 ho => exact (decodeCfg_ok h).imp_right (·.trans (packWord_of_fields ho rfl rfl))
  case h_2 ho => exact (decodeCfgp_ok h).imp_right (·.trans (packWord_of_fields ho rfl rfl))
  case h_7 ho => exact (decodeWrite_ok h).imp_right (·.trans (packWord_of_fields ho rfl rfl))
  case h_12 ho => exact (decodeRdtab_ok h).imp_right (·.trans (packWord_of_fields ho rfl rfl))
  case h_13 ho => exact (decodeRdst_ok h).imp_right (·.trans (packWord_of_fields ho rfl rfl))
  case h_14 => cases h
  case h_5 | h_11 =>
    next ho =>
    obtain ⟨rfl, hf, hp⟩ := decodeImm_ok h
    exact ⟨rfl, packWord_of_fields ho hf hp⟩
  all_goals
    next ho =>
    obtain ⟨rfl, hf, hp⟩ := decodeN_ok h
    exact ⟨rfl, packWord_of_fields ho hf hp⟩

theorem decode_ok_iff {w : CommandWord} {i : Instr} : decode w = .ok i ↔ i.wf = true ∧ encode i = w :=
  ⟨wf_and_encode_of_decode, fun ⟨hw, he⟩ => he ▸ decode_encode hw⟩

end Sys2Proof

namespace Sys2Proof.Safety

/-- Settles O2: a word is packed from its fields, and those a command does not use are zero where it decodes. -/
theorem encodeOfDecode : Obligations.EncodeOfDecode :=
  fun _ _ hd => wf_and_encode_of_decode hd

/-- Settles O6: each word is the encoding of its line. -/
theorem specWordsDecode : Obligations.SpecWordsDecode := by
  refine ⟨?_, ?_, ?_, ?_, ?_, ?_, ?_, ?_⟩ <;> exact decode_ok_iff.mpr ⟨rfl, rfl⟩

end Sys2Proof.Safety

/-! ## The rows of the match and mask table (R79) -/

namespace Sys2Proof

/-- A word of a row has the row's bits in every field the row's mask fixes. -/
theorem extractLsb'_of_admits {pattern mask w : CommandWord} (h : OpcodeRow.admits ⟨pattern, mask⟩ w = true)
    (start len : Nat) (hm : mask.extractLsb' start len = BitVec.allOnes len) :
    w.extractLsb' start len = pattern.extractLsb' start len := by
  have hw : w &&& mask = pattern := beq_iff_eq.mp h
  rw [← hw, BitVec.extractLsb'_and, hm, BitVec.and_allOnes]

open Laws.EncodeInRow in
theorem encodeInRow (i : Instr) : Laws.EncodeInRow.Statement i := by
  cases i
  exacts [cfg _ _ _ _ _, cfgp _, ensure, create, loadcrc _, reset, write0, write1 _, write2 _ _, write3 _ _ _,
    write4 _ _ _ _, write5 _ _ _ _ _, write6 _ _ _ _ _ _, sum16, sumb, blksz, rev16 _, rdtab _, rdstStatus, rdstPoly,
    rdstInit, rdstFinxor, rdstMode, rdstCrc]

theorem opcodeRow_mem_opcodeRows (i : Instr) : opcodeRow i ∈ opcodeRows := by
  cases i <;> simp [opcodeRows, rowSamples, opcodeRow]

/-- F[7:2] is bits 55:50 of the word. -/
theorem toNat_flagsField_lt_four {w : CommandWord} (h : w.extractLsb' 50 6 = 0#6) : (flagsField w).toNat < 4 := by
  rw [BitVec.toNat_eq, BitVec.extractLsb'_toNat, Nat.shiftRight_eq_div_pow, BitVec.toNat_ofNat] at h
  rw [toNat_flagsField]
  omega

/-- A word of a command's row decodes to a command of that row: the row's mask fixes the opcode and every field that the
decoder checks. -/
theorem decode_of_admits {i : Instr} {w : CommandWord} (h : (opcodeRow i).admits w = true) :
    ∃ j, decode w = .ok j ∧ opcodeRow j = opcodeRow i := by
  cases i <;> simp only [opcodeRow] at h <;> have ho := extractLsb'_of_admits h 56 8 rfl
  case cfg =>
    have hf := toNat_flagsField_lt_four (extractLsb'_of_admits h 50 6 rfl)
    simp [opcodeRow, decode, opcodeField, ho, decodeCfg, extractLsb'_flags_eq_zero_iff.mpr hf, unlessReserved]
  case cfgp =>
    have hf := toNat_flagsField_lt_four (extractLsb'_of_admits h 50 6 rfl)
    have hp : payloadField w = 0#48 := extractLsb'_of_admits h 0 48 rfl
    simp [opcodeRow, decode, opcodeField, ho, decodeCfgp, legalPreset, hf, hp, unlessReserved]
  case loadcrc | rev16 =>
    have hf : flagsField w = 0#8 := extractLsb'_of_admits h 48 8 rfl
    have ha : fieldA w = 0#16 := extractLsb'_of_admits h 32 16 rfl
    have hb : fieldB w = 0#16 := extractLsb'_of_admits h 16 16 rfl
    simp [opcodeRow, decode, opcodeField, ho, decodeImm, hf, ha, hb, unlessReserved]
  case write0 | write1 | write2 | write3 | write4 | write5 | write6 =>
    have hf := extractLsb'_of_admits h 48 8 rfl
    have hu := extractLsb'_of_admits h 0
    simp [opcodeRow, decode, opcodeField, ho, decodeWrite, flagsField, hf, unusedBytesZero, hu, unlessReserved]
  case rdtab =>
    have hp : payloadField w = 0#48 := extractLsb'_of_admits h 0 48 rfl
    simp [opcodeRow, decode, opcodeField, ho, decodeRdtab, hp, unlessReserved]
  case rdstStatus | rdstPoly | rdstInit | rdstFinxor | rdstMode | rdstCrc =>
    have hf := extractLsb'_of_admits h 48 8 rfl
    have hp : payloadField w = 0#48 := extractLsb'_of_admits h 0 48 rfl
    simp [opcodeRow, decode, opcodeField, ho, decodeRdst, flagsField, hf, hp, unlessReserved]
  all_goals
    have hf : flagsField w = 0#8 := extractLsb'_of_admits h 48 8 rfl
    have hp : payloadField w = 0#48 := extractLsb'_of_admits h 0 48 rfl
    simp [opcodeRow, decode, opcodeField, ho, decodeN, hf, hp, unlessReserved]

end Sys2Proof

namespace Sys2Proof.Safety

/-- Settles O3: a word that decodes is the encoding of its command, which lies in the command's row; and the mask of a
row fixes every field the decoder checks. -/
theorem opcodeMapDecodes : Obligations.OpcodeMapDecodes := by
  refine fun w => ⟨fun i hd => ?_, fun r hr h => ?_⟩
  · obtain ⟨hw, rfl⟩ := wf_and_encode_of_decode hd
    exact ⟨opcodeRow_mem_opcodeRows i, encodeInRow i hw⟩
  · obtain ⟨i, -, rfl⟩ := List.mem_map.mp hr
    exact decode_of_admits h

end Sys2Proof.Safety

/-! ## The words that are no command (R80 to R82, R84) -/

namespace Sys2Proof

/-! ### Format by format, the words that are reserved -/

theorem decodeN_error {w : CommandWord} {i : Instr} {r : Reject} :
    decodeN w i = .error r ↔ (w.toNat / 2 ^ 48 % 2 ^ 8 ≠ 0 ∨ w.toNat % 2 ^ 48 ≠ 0) ∧ r = .reserved := by
  rw [decodeN, unlessReserved_error, ← Bool.not_eq_true, Bool.and_eq_true, beq_iff_eq, beq_iff_eq,
    flagsField_eq_zero_iff, payloadField_eq_zero_iff, not_and_or]

theorem decodeImm_error {w : CommandWord} {i : U16 → Instr} {r : Reject} :
    decodeImm w i = .error r ↔ (w.toNat / 2 ^ 48 % 2 ^ 8 ≠ 0 ∨ 2 ^ 16 ≤ w.toNat % 2 ^ 48) ∧ r = .reserved := by
  rw [decodeImm, unlessReserved_error, ← Bool.not_eq_true, Bool.and_assoc, Bool.and_eq_true, Bool.and_eq_true,
    beq_iff_eq, beq_iff_eq, beq_iff_eq, flagsField_eq_zero_iff, fieldsAB_eq_zero_iff, not_and_or, not_lt]

theorem decodeCfg_error {w : CommandWord} {r : Reject} :
    decodeCfg w = .error r ↔ 4 ≤ w.toNat / 2 ^ 48 % 2 ^ 8 ∧ r = .reserved := by
  rw [decodeCfg, unlessReserved_error, ← Bool.not_eq_true, beq_iff_eq, BitVec.ofNat_eq_ofNat,
    extractLsb'_flags_eq_zero_iff, not_lt, toNat_flagsField]

theorem decodeCfgp_error {w : CommandWord} {r : Reject} :
    decodeCfgp w = .error r ↔ (4 ≤ w.toNat / 2 ^ 48 % 2 ^ 8 ∨ w.toNat % 2 ^ 48 ≠ 0) ∧ r = .reserved := by
  rw [decodeCfgp, unlessReserved_error, ← Bool.not_eq_true, Bool.and_eq_true, beq_iff_eq, legalPreset,
    decide_eq_true_iff, toNat_flagsField, payloadField_eq_zero_iff, not_and_or, not_lt]

theorem decodeWrite_error {w : CommandWord} {r : Reject} :
    decodeWrite w = .error r ↔ (7 ≤ w.toNat / 2 ^ 48 % 2 ^ 8 ∨ (w.toNat / 2 ^ 48 % 2 ^ 8 < 6 ∧
      w.toNat % 2 ^ 48 % 2 ^ (48 - 8 * (w.toNat / 2 ^ 48 % 2 ^ 8)) ≠ 0)) ∧ r = .reserved := by
  rw [← toNat_flagsField, decodeWrite]
  split
  case h_7 hf => simp [hf]
  case h_8 =>
    simp only [imp_false] at *
    have hf : 7 ≤ (flagsField w).toNat := by omega
    simp [hf, eq_comm]
  all_goals
    next hf =>
    rw [unlessReserved_error, ← Bool.not_eq_true, unusedBytesZero_iff_mod, hf]
    simp

theorem decodeRdtab_error {w : CommandWord} {r : Reject} :
    decodeRdtab w = .error r ↔ w.toNat % 2 ^ 48 ≠ 0 ∧ r = .reserved := by
  rw [decodeRdtab, unlessReserved_error, ← Bool.not_eq_true, beq_iff_eq, payloadField_eq_zero_iff]

theorem decodeRdst_error {w : CommandWord} {r : Reject} :
    decodeRdst w = .error r ↔ (6 ≤ w.toNat / 2 ^ 48 % 2 ^ 8 ∨ w.toNat % 2 ^ 48 ≠ 0) ∧ r = .reserved := by
  rw [← toNat_flagsField, decodeRdst]
  split
  case h_7 =>
    simp only [imp_false] at *
    have hf : 6 ≤ (flagsField w).toNat := by omega
    simp [hf, eq_comm]
  all_goals
    next hf =>
    rw [unlessReserved_error, ← Bool.not_eq_true, beq_iff_eq, payloadField_eq_zero_iff]
    simp [hf]

end Sys2Proof

namespace Sys2Proof.Safety

open Sys2Proof.Machine

/-! ### Every word that does not decode -/

/-- No word is refused for both reasons. -/
theorem not_reservedWord_of_illegalWord {w : CommandWord} (h : IllegalWord w) : ¬ReservedWord w := by
  simp only [IllegalWord, ReservedWord] at *
  omega

theorem decode_error_iff {w : CommandWord} {r : Reject} :
    decode w = .error r ↔ (IllegalWord w ∧ r = .illegal) ∨ (ReservedWord w ∧ r = .reserved) := by
  unfold decode
  split
  case h_14 =>
    have hill : IllegalWord w := by
      simp only [imp_false, toNat_opcodeField] at *
      simp only [IllegalWord]
      omega
    simp [hill, not_reservedWord_of_illegalWord hill, eq_comm]
  all_goals
    next hopc =>
    simp only [IllegalWord, ReservedWord, ← toNat_opcodeField, hopc]
    simp [decodeN_error, decodeImm_error, decodeCfg_error, decodeCfgp_error, decodeWrite_error, decodeRdtab_error,
      decodeRdst_error]

theorem decode_illegal_iff {w : CommandWord} : decode w = .error .illegal ↔ IllegalWord w := by
  simp [decode_error_iff]

theorem decode_reserved_iff {w : CommandWord} : decode w = .error .reserved ↔ ReservedWord w := by
  simp [decode_error_iff]

/-- Settles O4: the decoder refuses the word as illegal, and the step fails with the code of that refusal. -/
theorem unassignedOpcodesFail : Obligations.UnassignedOpcodesFail :=
  ⟨fun _ => decode_illegal_iff, fun _ _ _ hs hw => step_rejected hs (decode_illegal_iff.mpr hw)⟩

/-- Settles O5: the decoder refuses the word as reserved, and the step fails with the code of that refusal. -/
theorem reservedWordsFail : Obligations.ReservedWordsFail :=
  ⟨fun _ => decode_reserved_iff, fun _ _ _ hs hw => step_rejected hs (decode_reserved_iff.mpr hw)⟩

end Sys2Proof.Safety

/-! ## The lines of assembler (R85 to R87) -/

namespace Sys2Proof.Machine

open Sys2Proof.Safety

/-- The words of a line as numbers. -/
def lineWords (line : AsmLine) : Option (List Nat) := (assemble line).map fun ws => ws.map BitVec.toNat

theorem lineWords_of_commands {line : AsmLine} {is : List Instr} (h : lineCommands line = some is) :
    lineWords line = some (is.map fun i => (encode i).toNat) := by
  simp [lineWords, assemble, h]

/-- The words of a line depend on its commands only. -/
theorem lineWords_congr {line line' : AsmLine} (h : lineCommands line = lineCommands line') :
    lineWords line = lineWords line' := by
  rw [lineWords, lineWords, assemble, assemble, h]

/-! ### Lines with operands -/

theorem lineWords_cfg (poly init finxor : U16) (bitrev bigend : Bool) :
    lineWords (.cfg poly init finxor bitrev bigend) =
      some [0x01 * 2 ^ 56 + (2 * bigend.toNat + bitrev.toNat) * 2 ^ 48 + poly.toNat * 2 ^ 32 + init.toNat * 2 ^ 16 +
        finxor.toNat] := by
  rw [lineWords_of_commands rfl]
  simp [encode, toNat_packWord, toNat_packABC, toNat_packModeFlags, Nat.add_assoc]

theorem lineWords_loadcrc (imm : U16) : lineWords (.loadcrc imm) = some [0x05 * 2 ^ 56 + imm.toNat] := by
  rw [lineWords_of_commands rfl]
  simp [encode, toNat_packWord, toNat_packABC]

theorem lineWords_rev16 (imm : U16) : lineWords (.rev16 imm) = some [0x0B * 2 ^ 56 + imm.toNat] := by
  rw [lineWords_of_commands rfl]
  simp [encode, toNat_packWord, toNat_packABC]

theorem lineWords_rdtab (idx : U8) : lineWords (.rdtab idx) = some [0x0C * 2 ^ 56 + idx.toNat * 2 ^ 48] := by
  rw [lineWords_of_commands rfl]
  simp [encode, toNat_packWord]

theorem lineWords_rdstNumber (n : Nat) :
    lineWords (.rdstNumber n) = if n < 6 then some [0x0D * 2 ^ 56 + n * 2 ^ 48] else none := by
  match n with
  | 0 | 1 | 2 | 3 | 4 | 5 => decide
  | n + 6 => simp [lineWords, assemble, lineCommands, registerOfSelector]

/-- A string's bytes are its ASCII codes (00_scope.md R15). -/
theorem map_toNat_ascii {chars : List Char} (h : ∀ c ∈ chars, c.toNat < 128) :
    (ascii chars).map BitVec.toNat = chars.map Char.toNat := by
  rw [ascii, List.map_map]
  refine List.map_congr_left fun c hc => ?_
  have := h c hc
  rw [Function.comp_apply, BitVec.toNat_ofNat]
  omega

/-! ### WRITE (R76, R85) -/

/-- Up to six bytes are the data of a WRITE. -/
theorem writeCommand_of_le {bytes : List U8} (h : bytes.length ≤ 6) :
    ∃ i, writeCommand bytes = some i ∧ isWrite i = true ∧ dataBytes i = bytes := by
  match bytes, h with
  | [], _ => exact ⟨_, rfl, rfl, rfl⟩
  | [_], _ => exact ⟨_, rfl, rfl, rfl⟩
  | [_, _], _ => exact ⟨_, rfl, rfl, rfl⟩
  | [_, _, _], _ => exact ⟨_, rfl, rfl, rfl⟩
  | [_, _, _, _], _ => exact ⟨_, rfl, rfl, rfl⟩
  | [_, _, _, _, _], _ => exact ⟨_, rfl, rfl, rfl⟩
  | [_, _, _, _, _, _], _ => exact ⟨_, rfl, rfl, rfl⟩

theorem writeCommand_of_lt {bytes : List U8} (h : 6 < bytes.length) : writeCommand bytes = none := by
  unfold writeCommand
  split <;> simp_all

theorem lineWords_write {bytes : List U8} {i : Instr} (h : writeCommand bytes = some i) :
    lineWords (.write bytes) = some [(encode i).toNat] :=
  lineWords_of_commands (is := [i]) (by rw [lineCommands, h]; rfl)

theorem lineWords_write_of_lt {bytes : List U8} (h : 6 < bytes.length) : lineWords (.write bytes) = none := by
  rw [lineWords, assemble, lineCommands, writeCommand_of_lt h]
  rfl

/-- The fields of a WRITE's word as numbers. -/
theorem toNat_encode_of_isWrite {i : Instr} (h : isWrite i = true) :
    (encode i).toNat / 2 ^ 56 = 0x07 ∧ (encode i).toNat / 2 ^ 48 % 2 ^ 8 = (dataBytes i).length ∧
      ∀ j < 6, (encode i).toNat / 2 ^ (40 - 8 * j) % 2 ^ 8 = ((dataBytes i).getD j 0x00#8).toNat := by
  refine ⟨?_, ?_, fun j hj => ?_⟩
  · rw [← toNat_opcodeField, opcodeField_encode_of_isWrite h]
    rfl
  · have := length_dataBytes_le i
    rw [← toNat_flagsField, flagsField_encode_of_isWrite h, BitVec.toNat_ofNat]
    omega
  · rw [← toNat_dataByte, dataByte_encode_of_isWrite h hj]

/-! ### WRITES and CHECKSUM (R86, R87) -/

/-- WRITES of one to six bytes is a WRITE of them. -/
theorem lineCommands_writes_of_le {bytes : List U8} (hpos : 0 < bytes.length) (hle : bytes.length ≤ 6) :
    lineCommands (.writes bytes) = lineCommands (.write bytes) := by
  match bytes, hpos, hle with
  | [_], _, _ => rfl
  | [_, _], _, _ => rfl
  | [_, _, _], _, _ => rfl
  | [_, _, _, _], _, _ => rfl
  | [_, _, _, _, _], _, _ => rfl
  | [_, _, _, _, _, _], _, _ => rfl

/-- Six bytes before others are a WRITE of their own. -/
theorem writesCommands_append {first : List U8} (rest : List U8) (h : first.length = 6) :
    ∃ i, writeCommand first = some i ∧ writesCommands (first ++ rest) = i :: writesCommands rest := by
  match first, h with
  | [_, _, _, _, _, _], _ => exact ⟨_, rfl, rfl⟩

theorem lineWords_writes (bytes : List U8) :
    lineWords (.writes bytes) = some ((writesCommands bytes).map fun i => (encode i).toNat) :=
  lineWords_of_commands rfl

/-- A full first WRITE, and then WRITES of the rest. -/
theorem lineWords_writes_append {first : List U8} (rest : List U8) (h : first.length = 6) :
    ∃ w ws, lineWords (.write first) = some [w] ∧ lineWords (.writes rest) = some ws ∧
      lineWords (.writes (first ++ rest)) = some (w :: ws) := by
  obtain ⟨i, hfirst, happend⟩ := writesCommands_append rest h
  refine ⟨_, _, lineWords_write hfirst, lineWords_writes rest, ?_⟩
  rw [lineWords_writes, happend, List.map_cons]

theorem lineWords_checksum (bytes : List U8) : ∃ ws, lineWords (.writes bytes) = some ws ∧
    lineWords (.checksum bytes) = some ([0x0400000000000000] ++ ws ++ [0x0800000000000000]) := by
  refine ⟨_, lineWords_writes bytes, ?_⟩
  rw [lineWords_of_commands rfl, checksumCommands, List.map_append, List.map_append]
  rfl

/-! ### Decoding the words of a line -/

theorem map_decode_assemble {line : AsmLine} {ws : List CommandWord} (h : assemble line = some ws) :
    ∃ is, lineCommands line = some is ∧ ws.map decode = is.map Except.ok ∧ ∀ i ∈ is, i.wf = true := by
  obtain ⟨is, his, rfl⟩ := Option.map_eq_some_iff.mp h
  have hwf := lineCommands_wf his
  refine ⟨is, his, ?_, hwf⟩
  rw [List.map_map]
  exact List.map_congr_left fun i hi => decode_encode (hwf i hi)

end Sys2Proof.Machine

namespace Sys2Proof.Safety

open Sys2Proof.Machine

/-- Settles O7, line by line; the lines without operands and the named presets and registers by evaluation. -/
theorem assembledLinesDecode : Obligations.AssembledLinesDecode := by
  refine ⟨lineWords_cfg, ?presets, ?noOperand, fun imm => ⟨lineWords_loadcrc imm, lineWords_rev16 imm⟩,
    lineWords_rdtab, ?registers, lineWords_rdstNumber, fun _ => ⟨?write, lineWords_write_of_lt⟩,
    fun _ => map_toNat_ascii, ⟨rfl, ?_, fun _ rest => lineWords_writes_append rest⟩, lineWords_checksum,
    fun _ _ => map_decode_assemble⟩
  case presets => decide
  case noOperand => decide
  case registers => decide
  case write =>
    intro hle
    obtain ⟨i, hi, hwrite, rfl⟩ := writeCommand_of_le hle
    exact ⟨_, lineWords_write hi, toNat_encode_of_isWrite hwrite⟩
  · exact fun _ hpos hle => lineWords_congr (lineCommands_writes_of_le hpos hle)

end Sys2Proof.Safety

/-! ## The response word (R71) -/

namespace Sys2Proof.Machine

theorem toNat_responseWord (st : U8) (data : U16) :
    (responseWord st data).toNat = st.toNat * 2 ^ 24 + data.toNat := by
  have h : (responseWord st data).toNat = (st ++ 0x00#8 ++ data : BitVec (8 + 8 + 16)).toNat := rfl
  rw [h, toNat_append, toNat_append, BitVec.toNat_ofNat]
  omega

end Sys2Proof.Machine

namespace Sys2Proof.Safety

open Sys2Proof.Machine

/-- Settles O8: the word as a number, and its two fields read back. -/
theorem responseWordLayout : Obligations.ResponseWordLayout :=
  fun st data => ⟨toNat_responseWord st data, responseStatus_responseWord st data, responseData_responseWord st data⟩

/-! ### One sound response for each command word (R71; 60_exceptions.md R220, R222) -/

theorem responseSound_fail (e : ErrorCode) : ResponseSound (responseWord (errorStatus e) 0x0000#16) :=
  responseSound_responseWord (errorStatus_le_five e) fun _ => rfl

theorem responseSound_ok (data : U16) : ResponseSound (responseWord 0x00#8 data) :=
  responseSound_responseWord (by decide) (absurd rfl)

theorem exec_response {i : Instr} {s t : State} (h : exec i s = .next t) :
    ∃ r, t.responses = s.responses ++ [r] ∧ ResponseSound r := by
  obtain ⟨e, rfl⟩ | ⟨-, -, rfl⟩ := exec_cases h
  · exact ⟨_, fail_responses e s, responseSound_fail e⟩
  · exact ⟨_, by rw [respondOk_responses, effectOf_responses], responseSound_ok _⟩

theorem exec_inputs {i : Instr} {s t : State} (h : exec i s = .next t) : t.inputs = s.inputs := by
  obtain ⟨-, -, -, -, hin⟩ := exec_writesOnly h
  exact hin

/-- Settles O13: a word the decoder refuses fails, and any other is a command, which answers. -/
theorem everyCommandGetsOneResponse : Obligations.EveryCommandGetsOneResponse := by
  intro s w rest hs
  cases hd : decode w with
  | error r => exact ⟨_, _, step_rejected hs hd, rfl, rfl, responseSound_fail _⟩
  | ok i =>
    obtain ⟨t, ht⟩ := exec_answers i { s with inputs := rest }
    obtain ⟨r, hr, hsound⟩ := exec_response ht
    exact ⟨t, r, (step_decoded hs hd).trans ht, exec_inputs ht, hr, hsound⟩

end Sys2Proof.Safety

/-! ## Running WRITE commands and WRITES (R86; 42_update_engine.md R157) -/

namespace Sys2Proof.Machine

theorem foldSeq_append (t : Vector U16 Config.tableEntries) (bitrev : Bool) (crc : U16) (bytes bytes' : List U8) :
    foldSeq t bitrev crc (bytes ++ bytes') = foldSeq t bitrev (foldSeq t bitrev crc bytes) bytes' :=
  List.foldl_append

/-- The response of a WRITE that succeeds. -/
def writeResponse (i : Instr) : ResponseWord := responseWord 0x00#8 (byteCount (dataBytes i))

/-- The count a WRITE answers does not wrap. -/
theorem toNat_responseData_writeResponse (i : Instr) :
    (responseData (writeResponse i)).toNat = (dataBytes i).length := by
  have := length_dataBytes_le i
  rw [writeResponse, responseData_responseWord, byteCount, BitVec.toNat_ofNat]
  omega

/-! ### The commands of WRITES -/

theorem writesCommands_isWrite (bytes : List U8) : ∀ i ∈ writesCommands bytes, Safety.isWrite i = true := by
  induction bytes using writesCommands.induct <;> simp_all [writesCommands, Safety.isWrite]

theorem writesCommands_length (bytes : List U8) : (writesCommands bytes).length = (bytes.length + 5) / 6 := by
  induction bytes using writesCommands.induct with
  | case1 a b c d e f rest ih =>
    simp only [writesCommands, List.length_cons, ih]
    omega
  | _ => simp [writesCommands]

theorem writesCommands_flatMap_dataBytes (bytes : List U8) :
    (writesCommands bytes).flatMap dataBytes = bytes := by
  induction bytes using writesCommands.induct with
  | case1 a b c d e f rest ih =>
    rw [writesCommands, List.flatMap_cons, ih]
    rfl
  | _ => rfl

/-- All commands of WRITES but the one for the rest are full. -/
theorem writesCommands_take_full (bytes : List U8) :
    ∀ i ∈ (writesCommands bytes).take (bytes.length / 6), (dataBytes i).length = 6 := by
  induction bytes using writesCommands.induct with
  | case1 a b c d e f rest ih =>
    have hlen : (a :: b :: c :: d :: e :: f :: rest).length / 6 = rest.length / 6 + 1 := by
      simp only [List.length_cons]
      omega
    rw [hlen, writesCommands, List.take_succ_cons]
    exact List.forall_mem_cons.mpr ⟨rfl, ih⟩
  | _ => simp

end Sys2Proof.Machine

namespace Sys2Proof.Safety

open Sys2Proof.Machine

/-! ### A run of WRITE commands -/

/-- A WRITE of any count with a Digest folds its data and answers their count. -/
theorem exec_of_isWrite {i : Instr} {s : State} (h : isWrite i = true) (hc : s.cfgValid = true)
    (hd : s.digestValid = true) :
    exec i s = .next { s with
      crc := foldSeq s.table s.bitrev s.crc (dataBytes i), responses := s.responses ++ [writeResponse i] } := by
  have hm : missing .digest s = none := missing_digest_eq_none.mpr ⟨hc, hd⟩
  cases i
  case write0 | write1 | write2 | write3 | write4 | write5 | write6 => exact exec_of_missing_eq_none rfl hm
  all_goals cases h

/-- A sequence of WRITE commands with a Digest folds all their data in order, and each answers its count. -/
theorem runCommands_of_isWrite {is : List Instr} (his : ∀ i ∈ is, isWrite i = true) :
    ∀ {s : State}, s.inputs = [] → s.cfgValid = true → s.digestValid = true →
      runCommands is s = .next { s with
        crc := foldSeq s.table s.bitrev s.crc (is.flatMap dataBytes),
        responses := s.responses ++ is.map writeResponse } := by
  induction is with
  | nil =>
    intro s _ _ _
    simp [runCommands, foldSeq]
  | cons i is ih =>
    intro s hs hc hd
    obtain ⟨hi, his⟩ := List.forall_mem_cons.mp his
    rw [runCommands_cons (decode_encode (wf_of_isWrite hi)) hs (exec_of_isWrite hi hc hd), ih his]
    · simp [foldSeq_append]
    · exact hs
    · exact hc
    · exact hd

theorem writeResponses_status (is : List Instr) : ∀ r ∈ is.map writeResponse, responseStatus r = 0x00#8 := by
  simp [writeResponse]

/-- The answers of WRITE commands add up to the length of their data. -/
theorem writeResponses_sum (is : List Instr) :
    ((is.map writeResponse).map fun r => (responseData r).toNat).sum = (is.flatMap dataBytes).length := by
  rw [List.length_flatMap, List.map_map]
  exact congrArg List.sum (List.map_congr_left fun i _ => toNat_responseData_writeResponse i)

/-- Settles O44: the commands by induction on the bytes, six at a time, and their run by induction on the commands. -/
theorem writesFoldsWholeSequence : Obligations.WritesFoldsWholeSequence := by
  intro bytes
  have hdata := writesCommands_flatMap_dataBytes bytes
  refine ⟨writesCommands_length bytes, hdata, writesCommands_take_full bytes, fun s hs hc hd =>
    ⟨(writesCommands bytes).map writeResponse, ?_, writeResponses_status _, ?_⟩⟩
  · rw [runCommands_of_isWrite (writesCommands_isWrite bytes) hs hc hd, hdata]
  · rw [writeResponses_sum, hdata]

end Sys2Proof.Safety

/-! # Configuration commands (40_configuration.md) -/

/-! ## The common effect of CFG and CFGP (R104) -/

namespace Sys2Proof.Safety

open Sys2Proof.Machine

/-- A new Configuration with its answer, as an update of the fields it writes. -/
theorem respondOk_newConfiguration (a : Attributes) (s : State) :
    respondOk 0x0000#16 (newConfiguration a s) = { s with
      poly := a.poly, init := a.init, finxor := a.finxor, bitrev := a.bitrev, bigend := a.bigend,
      cfgValid := true, tableValid := false, digestValid := false,
      responses := s.responses ++ [responseWord 0x00#8 0x0000#16] } := rfl

theorem exec_cfg (a : Attributes) (s : State) :
    exec (.cfg a.poly a.init a.finxor a.bitrev a.bigend) s =
      .next (respondOk 0x0000#16 (newConfiguration a s)) :=
  exec_of_missing_eq_none rfl (missing_nothing s)

theorem exec_cfgp_of_preset {sel : U8} {a : Attributes} (h : preset sel = some a) (s : State) :
    exec (.cfgp sel) s = .next (respondOk 0x0000#16 (newConfiguration a s)) := by
  rw [exec, execCfgp, h]
  exact perform_of_none (missing_nothing s)

/-- Settles O25: CFG needs nothing, a legal preset number has a tuple, and either way the effect is a new Configuration,
which leaves TABLE and CRC as they were. -/
theorem cfgAndCfgpLoadConfiguration : Obligations.CfgAndCfgpLoadConfiguration := by
  constructor
  · intro s poly init finxor bitrev bigend
    refine ⟨s.table, s.crc, ?_⟩
    rw [exec_cfg ⟨poly, bitrev, init, finxor, bigend⟩, respondOk_newConfiguration]
  · intro sel hsel
    obtain ⟨a, ha⟩ := preset_of_legal (decide_eq_true hsel)
    refine ⟨a.poly, a.init, a.finxor, a.bitrev, a.bigend, fun s => ⟨s.table, s.crc, ?_⟩⟩
    rw [exec_cfgp_of_preset ha, respondOk_newConfiguration]

end Sys2Proof.Safety

/-! # Table generator (41_table_generator.md), and the folds over its tables (42_update_engine.md R150 to R152) -/

/-! ## Bit reversal (R120) and the bytes of a register under XOR -/

namespace Sys2Proof.Machine

theorem rev16_rev16 (v : U16) : rev16 (rev16 v) = v := BitVec.reverse_reverse_eq

theorem rev16_xor (a b : U16) : rev16 (a ^^^ b) = rev16 a ^^^ rev16 b := by
  apply BitVec.eq_of_getLsbD_eq
  intro i hi
  simp only [getLsbD_rev16, BitVec.getLsbD_xor, hi, decide_true, Bool.true_and]

/-- Reversed, a shift left by one is a shift right by one. -/
theorem rev16_shiftLeft_one (v : U16) : rev16 (v <<< 1) = rev16 v >>> 1 := by
  apply BitVec.eq_of_getLsbD_eq
  intro i hi
  rw [getLsbD_rev16, BitVec.getLsbD_shiftLeft, BitVec.getLsbD_ushiftRight, getLsbD_rev16]
  by_cases h : i < 15
  · simp [hi, show 15 - i < 16 by omega, show ¬15 - i < 1 by omega, show 1 + i < 16 by omega,
      show 15 - i - 1 = 15 - (1 + i) by omega]
  · simp [show i = 15 by omega]

theorem lowByte_xor (a b : U16) : lowByte (a ^^^ b) = lowByte a ^^^ lowByte b := BitVec.extractLsb'_xor

theorem highByte_xor (a b : U16) : highByte (a ^^^ b) = highByte a ^^^ highByte b := BitVec.extractLsb'_xor

theorem zext16_xor (a b : U8) : zext16 (a ^^^ b) = zext16 a ^^^ zext16 b := BitVec.setWidth_xor

theorem joinBytes_xor (hi lo hi' lo' : U8) :
    joinBytes (hi ^^^ hi') (lo ^^^ lo') = joinBytes hi lo ^^^ joinBytes hi' lo' :=
  BitVec.xor_append.symm

theorem joinBytes_zero_xor (a b : U8) :
    joinBytes (a ^^^ b) 0x00#8 = joinBytes a 0x00#8 ^^^ joinBytes b 0x00#8 :=
  joinBytes_xor a 0x00#8 b 0x00#8

theorem toNat_zext16 (b : U8) : (zext16 b).toNat = b.toNat := BitVec.toNat_setWidth_of_le (by decide)

theorem toNat_joinBytes_zero (b : U8) : (joinBytes b 0x00#8).toNat = b.toNat * 2 ^ 8 := by
  rw [toNat_joinBytes, BitVec.toNat_ofNat, Nat.zero_mod, Nat.add_zero]

theorem zext16_eq_joinBytes (b : U8) : zext16 b = joinBytes 0x00#8 b := by
  apply BitVec.eq_of_toNat_eq
  rw [toNat_zext16, toNat_joinBytes, BitVec.toNat_ofNat, Nat.zero_mod, Nat.zero_mul, Nat.zero_add]

/-- A register is the XOR of its two bytes, each in its place. -/
theorem xor_bytes (r : U16) : joinBytes (highByte r) 0x00#8 ^^^ zext16 (lowByte r) = r := by
  rw [zext16_eq_joinBytes, ← joinBytes_xor, BitVec.xor_zero, BitVec.zero_xor, joinBytes_bytes]

/-- Shifted right by 8, a register is its high byte. -/
theorem zext16_highByte (r : U16) : zext16 (highByte r) = r >>> 8 := by
  apply BitVec.eq_of_toNat_eq
  rw [toNat_zext16, toNat_highByte, BitVec.toNat_ushiftRight, Nat.shiftRight_eq_div_pow]

/-- Shifted left by 8, a register is its low byte, moved to the high one. -/
theorem joinBytes_lowByte_zero (r : U16) : joinBytes (lowByte r) 0x00#8 = r <<< 8 := by
  apply BitVec.eq_of_toNat_eq
  rw [toNat_joinBytes_zero, toNat_lowByte, BitVec.toNat_shiftLeft, Nat.shiftLeft_eq]
  omega

/-- Reversed, a byte in the high byte of a register is the reversed byte in the low byte. -/
theorem rev16_joinBytes_zero (b : U8) : rev16 (joinBytes b 0x00#8) = zext16 b.reverse := by
  apply BitVec.eq_of_getLsbD_eq
  intro i hi
  rw [getLsbD_rev16, getLsbD_joinBytes, getLsbD_zext16, BitVec.getLsbD_reverse, BitVec.getMsbD_eq_getLsbD]
  by_cases h : i < 8
  · simp [hi, h, show ¬15 - i < 8 by omega, show 15 - i - 8 = 7 - i by omega]
  · simp [h, show 15 - i < 8 by omega]

/-- Settles O28: the bits of a reversed value, and reversal twice. -/
theorem rev16ReversesBits : Obligations.Rev16ReversesBits := by
  refine ⟨fun v i hi => ?_, rev16_rev16, by decide, by decide, by decide⟩
  rw [getLsbD_rev16]
  simp [show 15 - i < 16 by omega, show 15 - (15 - i) = i by omega]

end Sys2Proof.Machine

/-! ## A round of the entry builders (R121, R122) -/

namespace Sys2Proof.Machine

/-- The polynomial XORed in for a bit and for another one is XORed in for their XOR: twice it cancels. -/
theorem xor_ite_xor (a b : Bool) (x y p : U16) :
    (if a ^^ b then (x ^^^ y) ^^^ p else x ^^^ y) = (if a then x ^^^ p else x) ^^^ (if b then y ^^^ p else y) := by
  cases a <;> cases b
  · rfl
  · exact BitVec.xor_assoc x y p
  · change (x ^^^ y) ^^^ p = (x ^^^ p) ^^^ y
    ac_rfl
  · change x ^^^ y = (x ^^^ p) ^^^ (y ^^^ p)
    rw [BitVec.xor_comm y p, BitVec.xor_assoc, ← BitVec.xor_assoc p, BitVec.xor_self, BitVec.zero_xor]

theorem roundR_xor (rp a b : U16) : roundR rp (a ^^^ b) = roundR rp a ^^^ roundR rp b := by
  simp only [roundR, BitVec.getLsbD_xor, BitVec.ushiftRight_xor_distrib]
  exact xor_ite_xor _ _ _ _ rp

theorem roundN_xor (poly a b : U16) : roundN poly (a ^^^ b) = roundN poly a ^^^ roundN poly b := by
  simp only [roundN, BitVec.getLsbD_xor, BitVec.shiftLeft_xor_distrib]
  exact xor_ite_xor _ _ _ _ poly

/-- Rounds are linear. -/
theorem iterate_roundR_xor (rp : U16) (n : Nat) (a b : U16) :
    (roundR rp)^[n] (a ^^^ b) = (roundR rp)^[n] a ^^^ (roundR rp)^[n] b :=
  Function.Semiconj₂.iterate (roundR_xor rp) n a b

theorem iterate_roundN_xor (poly : U16) (n : Nat) (a b : U16) :
    (roundN poly)^[n] (a ^^^ b) = (roundN poly)^[n] a ^^^ (roundN poly)^[n] b :=
  Function.Semiconj₂.iterate (roundN_xor poly) n a b

theorem roundR_of_bit_false {c : U16} (h : c.getLsbD 0 = false) (rp : U16) : roundR rp c = c >>> 1 := by
  rw [roundR, h, if_neg Bool.false_ne_true]

theorem roundN_of_bit_false {c : U16} (h : c.getLsbD 15 = false) (poly : U16) : roundN poly c = c <<< 1 := by
  rw [roundN, h, if_neg Bool.false_ne_true]

/-- While only zeros are shifted out, rounds are a shift. -/
theorem iterate_roundR_of_low_zero (rp : U16) (n : Nat) :
    ∀ {c : U16}, (∀ i < n, c.getLsbD i = false) → (roundR rp)^[n] c = c >>> n := by
  induction n with
  | zero => simp
  | succ n ih =>
    intro c h
    have hc : ∀ i < n, (c >>> 1).getLsbD i = false := fun i hi => by
      rw [BitVec.getLsbD_ushiftRight]
      exact h (1 + i) (by omega)
    rw [Function.iterate_succ_apply, roundR_of_bit_false (h 0 (by omega)), ih hc, ← BitVec.shiftRight_add,
      Nat.add_comm]

theorem iterate_roundN_of_high_zero (poly : U16) (n : Nat) :
    ∀ {c : U16}, (∀ i < n, c.getLsbD (15 - i) = false) → (roundN poly)^[n] c = c <<< n := by
  induction n with
  | zero => simp
  | succ n ih =>
    intro c h
    have hc : ∀ i < n, (c <<< 1).getLsbD (15 - i) = false := fun i hi => by
      rw [BitVec.getLsbD_shiftLeft, Nat.sub_right_comm, Nat.sub_sub, Nat.add_comm, h (i + 1) (by omega), Bool.and_false]
    rw [Function.iterate_succ_apply, roundN_of_bit_false (h 0 (by omega)), ih hc, ← BitVec.shiftLeft_add,
      Nat.add_comm]

/-- Eight rounds only move a byte that stands away from the end the rounds shift out. -/
theorem iterate_roundR_joinBytes_zero (rp : U16) (b : U8) : (roundR rp)^[8] (joinBytes b 0x00#8) = zext16 b := by
  have h : ∀ i < 8, (joinBytes b 0x00#8).getLsbD i = false := fun i hi => by simp [getLsbD_joinBytes, hi]
  rw [iterate_roundR_of_low_zero rp 8 h, ← zext16_highByte, highByte_joinBytes]

theorem iterate_roundN_zext16 (poly : U16) (b : U8) : (roundN poly)^[8] (zext16 b) = joinBytes b 0x00#8 := by
  have h : ∀ i < 8, (zext16 b).getLsbD (15 - i) = false := fun i hi => by
    rw [getLsbD_zext16, BitVec.getLsbD_of_ge b _ (by omega), Bool.and_false]
  rw [iterate_roundN_of_high_zero poly 8 h, ← joinBytes_lowByte_zero, zext16_eq_joinBytes, lowByte_joinBytes]

/-- A round of the normal builder, mirrored, is a round of the bit-reversed one. -/
theorem rev16_roundN (poly c : U16) : rev16 (roundN poly c) = roundR (rev16 poly) (rev16 c) := by
  have h : (rev16 c).getLsbD 0 = c.getLsbD 15 := getLsbD_rev16 c 0
  simp only [roundR, roundN, h]
  split
  · rw [rev16_xor, rev16_shiftLeft_one]
  · rw [rev16_shiftLeft_one]

theorem rev16_iterate_roundN (poly : U16) (n : Nat) (c : U16) :
    rev16 ((roundN poly)^[n] c) = (roundR (rev16 poly))^[n] (rev16 c) :=
  Function.Semiconj.iterate_right (rev16_roundN poly) n c

/-! ### Rounds on numbers -/

/-- A round of the bit-reversed builder on numbers (R121). -/
def roundRNat (rp c : Nat) : Nat := if c % 2 = 1 then (c / 2) ^^^ rp else c / 2

/-- A round of the normal builder on numbers (R122). -/
def roundNNat (poly c : Nat) : Nat := if 2 ^ 15 ≤ c then (2 * c % 2 ^ 16) ^^^ poly else 2 * c % 2 ^ 16

theorem toNat_roundR (rp c : U16) : (roundR rp c).toNat = roundRNat rp.toNat c.toNat := by
  have hbit : c.getLsbD 0 = decide (c.toNat % 2 = 1) := by rw [← BitVec.testBit_toNat, Nat.testBit_zero]
  have hshift : (c >>> 1).toNat = c.toNat / 2 := by rw [BitVec.toNat_ushiftRight, Nat.shiftRight_one]
  simp only [roundR, roundRNat, hbit, decide_eq_true_eq]
  split
  · rw [BitVec.toNat_xor, hshift]
  · exact hshift

theorem toNat_roundN (poly c : U16) : (roundN poly c).toNat = roundNNat poly.toNat c.toNat := by
  have hbit : c.getLsbD 15 = decide (2 ^ 15 ≤ c.toNat) := BitVec.msb_eq_decide c
  have hshift : (c <<< 1).toNat = 2 * c.toNat % 2 ^ 16 := by
    rw [BitVec.toNat_shiftLeft, Nat.shiftLeft_eq, Nat.pow_one, Nat.mul_comm]
  simp only [roundN, roundNNat, hbit, decide_eq_true_eq]
  split
  · rw [BitVec.toNat_xor, hshift]
  · exact hshift

theorem toNat_buildEntryR (rp : U16) (i : U8) : (buildEntryR rp i).toNat = (roundRNat rp.toNat)^[8] i.toNat := by
  rw [← toNat_zext16]
  exact Function.Semiconj.iterate_right (toNat_roundR rp) 8 (zext16 i)

theorem toNat_buildEntryN (poly : U16) (i : U8) :
    (buildEntryN poly i).toNat = (roundNNat poly.toNat)^[8] (i.toNat * 2 ^ 8) := by
  rw [← toNat_joinBytes_zero]
  exact Function.Semiconj.iterate_right (toNat_roundN poly) 8 (joinBytes i 0x00#8)

/-- BITREV selects the builder, and the bit-reversed one gets the reversed polynomial (R123). -/
theorem buildEntry_true (poly : U16) (i : U8) : buildEntry true poly i = buildEntryR (rev16 poly) i := rfl

theorem buildEntry_false (poly : U16) (i : U8) : buildEntry false poly i = buildEntryN poly i := rfl

/-- Settles O29: each round on bit vectors is the round on numbers, and so are eight of them. -/
theorem buildersRunEightRounds : Obligations.BuildersRunEightRounds :=
  ⟨toNat_buildEntryR, toNat_buildEntryN, fun poly i => ⟨buildEntry_true poly i, buildEntry_false poly i⟩⟩

end Sys2Proof.Machine

/-! ## The entries of a table (R123, R124, R129) -/

namespace Sys2Proof.Machine

/-- Entries are linear in the index, as the rounds are. -/
theorem buildEntryR_xor (rp : U16) (i j : U8) : buildEntryR rp (i ^^^ j) = buildEntryR rp i ^^^ buildEntryR rp j := by
  rw [buildEntryR, zext16_xor, iterate_roundR_xor]
  rfl

theorem buildEntryN_xor (poly : U16) (i j : U8) :
    buildEntryN poly (i ^^^ j) = buildEntryN poly i ^^^ buildEntryN poly j := by
  rw [buildEntryN, joinBytes_zero_xor, iterate_roundN_xor]
  rfl

theorem buildEntry_xor (bitrev : Bool) (poly : U16) (i j : U8) :
    buildEntry bitrev poly (i ^^^ j) = buildEntry bitrev poly i ^^^ buildEntry bitrev poly j := by
  cases bitrev
  · exact buildEntryN_xor poly i j
  · exact buildEntryR_xor (rev16 poly) i j

/-- Entry 0 is entry `0 XOR 0`, so by linearity the XOR of a value with itself. -/
theorem buildEntry_zero_index (bitrev : Bool) (poly : U16) : buildEntry bitrev poly 0x00#8 = 0x0000#16 := by
  have h := buildEntry_xor bitrev poly 0x00#8 0x00#8
  rwa [BitVec.xor_self, BitVec.xor_self] at h

/-- The bit of index 0x80 reaches bit 0 after seven rounds, and the eighth shifts it out. -/
theorem buildEntryR_0x80 (rp : U16) : buildEntryR rp 0x80#8 = rp := by
  have h7 : (roundR rp)^[7] (zext16 0x80#8) = 0x0001#16 := iterate_roundR_of_low_zero rp 7 (by decide)
  rw [buildEntryR, Function.iterate_succ_apply', h7]
  exact BitVec.zero_xor

/-- The bit of index 0x01, in the high byte, reaches bit 15 after seven rounds, and the eighth shifts it out. -/
theorem buildEntryN_0x01 (poly : U16) : buildEntryN poly 0x01#8 = poly := by
  have h7 : (roundN poly)^[7] (joinBytes 0x01#8 0x00#8) = 0x8000#16 := iterate_roundN_of_high_zero poly 7 (by decide)
  rw [buildEntryN, Function.iterate_succ_apply', h7]
  exact BitVec.zero_xor

/-- With the zero polynomial a round is a shift, whatever bit is shifted out. -/
theorem roundR_zero_poly (c : U16) : roundR 0x0000#16 c = c >>> 1 := by
  rw [roundR, BitVec.xor_zero, ite_self]

theorem roundN_zero_poly (c : U16) : roundN 0x0000#16 c = c <<< 1 := by
  rw [roundN, BitVec.xor_zero, ite_self]

theorem iterate_roundR_zero_poly (n : Nat) (c : U16) : (roundR 0x0000#16)^[n] c = c >>> n := by
  induction n with
  | zero => simp
  | succ n ih => rw [Function.iterate_succ_apply', ih, roundR_zero_poly, ← BitVec.shiftRight_add]

theorem iterate_roundN_zero_poly (n : Nat) (c : U16) : (roundN 0x0000#16)^[n] c = c <<< n := by
  induction n with
  | zero => simp
  | succ n ih => rw [Function.iterate_succ_apply', ih, roundN_zero_poly, ← BitVec.shiftLeft_add]

/-- With the zero polynomial the byte is shifted out and nothing comes in for it. -/
theorem buildEntry_zero_poly (bitrev : Bool) (i : U8) : buildEntry bitrev 0x0000#16 i = 0x0000#16 := by
  cases bitrev
  · rw [buildEntry_false, buildEntryN, iterate_roundN_zero_poly, ← joinBytes_lowByte_zero, lowByte_joinBytes]
    rfl
  · have hrev : rev16 0x0000#16 = 0x0000#16 := by decide
    rw [buildEntry_true, hrev, buildEntryR, iterate_roundR_zero_poly, ← zext16_highByte, zext16_eq_joinBytes i,
      highByte_joinBytes]
    rfl

/-- Settles O31: linearity from that of the rounds, the generators' own entries from seven shifts, and the examples by
evaluation. -/
theorem tableEntryProperties : Obligations.TableEntryProperties := by
  refine ⟨buildEntry_zero_index, buildEntry_xor, fun p => ⟨buildEntryR_0x80 (rev16 p), buildEntryN_0x01 p⟩,
    buildEntry_zero_poly, ?_, ?_, ?_⟩ <;> decide

/-! ### The table build as a loop of writes (R124) -/

/-- Writing an entry for each index of a list leaves every other entry as it was. -/
theorem tabRead_foldl_tabWrite (entry : U8 → U16) (is : List U8) (j : U8) (t : Vector U16 Config.tableEntries) :
    tabRead (is.foldl (fun t i => tabWrite i (entry i) t) t) j = if j ∈ is then entry j else tabRead t j := by
  induction is generalizing t with
  | nil => simp
  | cons i is ih =>
    rw [List.foldl_cons, ih]
    by_cases hij : j = i
    · subst hij
      simp [tabRead_tabWrite_same]
    · simp [hij, tabRead_tabWrite_other t (entry i) (Ne.symm hij)]

/-- Settles O30: every index is in the loop, so no entry of the old table is left. -/
theorem tableBuildIsTheEntryLoop : Obligations.TableBuildIsTheEntryLoop := by
  intro bitrev poly old
  rw [← List.foldl_map (f := BitVec.ofNat 8) (g := fun t i => tabWrite i (buildEntry bitrev poly i) t)]
  refine table_ext fun j => ?_
  have hj : j ∈ (List.range 256).map (BitVec.ofNat 8) :=
    List.mem_map.mpr ⟨j.toNat, List.mem_range.mpr j.isLt, (BitVec.ofNat_toNat 8 j).trans (BitVec.setWidth_eq j)⟩
  rw [tabRead_foldl_tabWrite, if_pos hj, tabRead_buildTable]

end Sys2Proof.Machine

/-! ## The commands REV16, ENSURE and RDTAB (R125 to R127) -/

namespace Sys2Proof.Safety

open Sys2Proof.Machine

/-- Settles O32: REV16 needs nothing and answers `rev16` of its immediate. -/
theorem rev16Completes : Obligations.Rev16Completes := by
  refine fun s imm => ⟨rev16 imm, exec_of_missing_eq_none rfl (missing_nothing s), fun i hi => ?_⟩
  rw [getLsbD_rev16, decide_eq_true hi, Bool.true_and]

/-- ENSURE with a Configuration ensures the table and answers whether it was to be built. -/
theorem exec_ensure {s : State} {built : Bool} (hc : s.cfgValid = true) (hv : s.tableValid = built) :
    exec .ensure s = .next (respondOk (zextBit (!built)) (ensureTable s)) := by
  rw [← hv]
  exact exec_of_missing_eq_none rfl (missing_config_eq_none.mpr hc)

/-- Settles O33, by TABLE_VALID: the table is built, or the state stays. -/
theorem ensureBuildsOnce : Obligations.EnsureBuildsOnce := by
  refine ⟨fun s hc hv => ⟨buildTable s.bitrev s.poly, ?_, fun i => tabRead_buildTable _ _ i⟩, fun s hc hv => ?_⟩
  · rw [exec_ensure hc hv, ensureTable_of_not_valid hv]
    rfl
  · rw [exec_ensure hc hv, ensureTable_of_valid hv]
    rfl

/-- Settles O34: RDTAB needs the table and has no effect. -/
theorem rdtabReadsEntry : Obligations.RdtabReadsEntry :=
  fun _ _ hc hv => exec_of_missing_eq_none rfl (missing_table_eq_none.mpr ⟨hc, hv⟩)

end Sys2Proof.Safety

/-! ## The fold of a byte over a built table (42_update_engine.md R150 to R152) -/

namespace Sys2Proof.Machine

/-- Of the register XOR the byte, the low byte goes through the rounds to an entry and the high byte is only moved. -/
theorem foldR_buildTable (poly crc : U16) (b : U8) :
    foldR (buildTable true poly) crc b = (roundR (rev16 poly))^[8] (crc ^^^ zext16 b) := by
  have hsplit : crc ^^^ zext16 b = zext16 (lowByte crc ^^^ b) ^^^ joinBytes (highByte crc) 0x00#8 := by
    conv_lhs => rw [← xor_bytes crc]
    rw [zext16_xor]
    ac_rfl
  rw [hsplit, iterate_roundR_xor, iterate_roundR_joinBytes_zero, zext16_highByte, foldR, tabRead_buildTable]
  rfl

/-- Of the register XOR the byte, the high byte goes through the rounds to an entry and the low byte is only moved. -/
theorem foldN_buildTable (poly crc : U16) (b : U8) :
    foldN (buildTable false poly) crc b = (roundN poly)^[8] (crc ^^^ joinBytes b 0x00#8) := by
  have hsplit : crc ^^^ joinBytes b 0x00#8 = joinBytes (highByte crc ^^^ b) 0x00#8 ^^^ zext16 (lowByte crc) := by
    conv_lhs => rw [← xor_bytes crc]
    rw [joinBytes_zero_xor]
    ac_rfl
  rw [hsplit, iterate_roundN_xor, iterate_roundN_zext16, joinBytes_lowByte_zero, foldN, tabRead_buildTable]
  rfl

/-- Settles O36: the rounds are linear, and the register splits into the byte they fold and the byte they move. -/
theorem tableFoldEqualsBitwiseFold : Obligations.TableFoldEqualsBitwiseFold :=
  fun poly crc b => ⟨foldR_buildTable poly crc b, foldN_buildTable poly crc b⟩

/-! ### The two bit orders are mirror images (R130) -/

theorem foldByte_mirror (poly crc : U16) (b : U8) :
    foldByte (buildTable true poly) true (rev16 crc) b.reverse =
      rev16 (foldByte (buildTable false poly) false crc b) :=
  calc foldR (buildTable true poly) (rev16 crc) b.reverse
      = (roundR (rev16 poly))^[8] (rev16 crc ^^^ zext16 b.reverse) := foldR_buildTable poly (rev16 crc) b.reverse
    _ = (roundR (rev16 poly))^[8] (rev16 (crc ^^^ joinBytes b 0x00#8)) := by rw [rev16_xor, rev16_joinBytes_zero]
    _ = rev16 ((roundN poly)^[8] (crc ^^^ joinBytes b 0x00#8)) := (rev16_iterate_roundN poly 8 _).symm
    _ = rev16 (foldN (buildTable false poly) crc b) := by rw [foldN_buildTable]

/-- Settles O37: the mirror law of one byte, carried through the sequence. -/
theorem conventionsAreMirrorImages : Obligations.ConventionsAreMirrorImages := by
  intro poly crc bytes
  rw [foldSeq, List.foldl_map]
  exact List.foldl_hom rev16 (foldByte_mirror poly)

/-! ### The fold is linear -/

theorem foldByte_xor (bitrev : Bool) (poly crc crc' : U16) (b b' : U8) :
    foldByte (buildTable bitrev poly) bitrev (crc ^^^ crc') (b ^^^ b') =
      foldByte (buildTable bitrev poly) bitrev crc b ^^^ foldByte (buildTable bitrev poly) bitrev crc' b' := by
  cases bitrev
  · change foldN _ _ _ = foldN _ _ _ ^^^ foldN _ _ _
    rw [foldN_buildTable, foldN_buildTable, foldN_buildTable, ← iterate_roundN_xor, joinBytes_zero_xor]
    ac_rfl
  · change foldR _ _ _ = foldR _ _ _ ^^^ foldR _ _ _
    rw [foldR_buildTable, foldR_buildTable, foldR_buildTable, ← iterate_roundR_xor, zext16_xor]
    ac_rfl

/-- Settles O38, by induction on the two sequences together, byte after byte. -/
theorem foldIsLinear : Obligations.FoldIsLinear := by
  intro bitrev poly crc crc' bytes
  induction bytes generalizing crc crc' with
  | nil =>
    intro bytes' hlen
    rw [List.length_eq_zero_iff.mp hlen.symm]
    rfl
  | cons b bytes ih =>
    intro bytes' hlen
    obtain ⟨b', bytes', rfl⟩ := List.exists_cons_of_length_eq_add_one hlen.symm
    have h := ih (foldByte (buildTable bitrev poly) bitrev crc b) (foldByte (buildTable bitrev poly) bitrev crc' b')
      bytes' (Nat.succ.inj hlen)
    rw [← foldByte_xor] at h
    exact h

end Sys2Proof.Machine

/-! # Update engine (42_update_engine.md) -/

/-! ## The two folds on numbers (R150, R151) -/

namespace Sys2Proof.Machine

/-- The XOR of two bytes, computed on numbers. -/
theorem ofNat_xor_toNat (a b : U8) : BitVec.ofNat 8 (a.toNat ^^^ b.toNat) = a ^^^ b := by
  rw [← BitVec.toNat_xor, BitVec.ofNat_toNat, BitVec.setWidth_eq]

/-- Settles O35: the byte of the register as a number gives the index, and a shift by 8 is a division or a product by
2^8. -/
theorem foldFormulas : Obligations.FoldFormulas := by
  refine fun t crc b => ⟨?_, ?_⟩
  · rw [← toNat_lowByte, ofNat_xor_toNat, foldR, BitVec.toNat_xor, BitVec.toNat_ushiftRight,
      Nat.shiftRight_eq_div_pow]
  · rw [← toNat_highByte, ofNat_xor_toNat, foldN, BitVec.toNat_xor, BitVec.toNat_shiftLeft, Nat.shiftLeft_eq]

end Sys2Proof.Machine

/-! ## The commands CREATE, LOADCRC, RESET and WRITE (R154 to R157) -/

namespace Sys2Proof.Safety

open Sys2Proof.Machine

/-! ### A new Digest (R154, R155) -/

theorem exec_create {s : State} (hc : s.cfgValid = true) :
    exec .create s = .next (respondOk 0x0000#16 (startDigest s.init s)) :=
  exec_of_missing_eq_none rfl (missing_config_eq_none.mpr hc)

theorem exec_loadcrc {s : State} (imm : U16) (hc : s.cfgValid = true) :
    exec (.loadcrc imm) s = .next (respondOk 0x0000#16 (startDigest imm s)) :=
  exec_of_missing_eq_none rfl (missing_config_eq_none.mpr hc)

/-- A new Digest with its answer: TABLE is the old table or the built one, by TABLE_VALID, and beside CRC and the two
flags nothing else changes. -/
theorem respondOk_startDigest (value : U16) (s : State) : ∃ table,
    respondOk 0x0000#16 (startDigest value s) = { s with
      table := table, tableValid := true, crc := value, digestValid := true,
      responses := s.responses ++ [responseWord 0x00#8 0x0000#16] } ∧
    (s.tableValid = true → table = s.table) ∧
    (s.tableValid = false → ∀ i, tabRead table i = buildEntry s.bitrev s.poly i) := by
  refine ⟨(ensureTable s).table, ?_, fun hv => ?_, fun hv i => ?_⟩
  · rw [startDigest_eq]
    rfl
  · rw [ensureTable_of_valid hv]
  · rw [ensureTable_of_not_valid hv, tableBuild_table, tabRead_buildTable]

/-- Settles O40: CREATE is a new Digest whose register is INIT. -/
theorem createStartsDigest : Obligations.CreateStartsDigest := by
  intro s hc
  rw [exec_create hc]
  obtain ⟨table, h, htable⟩ := respondOk_startDigest s.init s
  exact ⟨table, congrArg _ h, htable⟩

/-- Settles O41: LOADCRC is a new Digest whose register is the immediate, so with INIT it is CREATE, failures
included. -/
theorem loadcrcSetsRegister : Obligations.LoadcrcSetsRegister := by
  refine ⟨fun s imm hc => ?_, fun _ => rfl⟩
  rw [exec_loadcrc imm hc]
  obtain ⟨table, h, htable⟩ := respondOk_startDigest imm s
  exact ⟨table, congrArg _ h, htable⟩

/-! ### RESET and WRITE (R156, R157) -/

theorem exec_reset {s : State} (hc : s.cfgValid = true) (hd : s.digestValid = true) :
    exec .reset s = .next (respondOk 0x0000#16 { s with crc := s.init }) :=
  exec_of_missing_eq_none rfl (missing_digest_eq_none.mpr ⟨hc, hd⟩)

/-- With a Digest and its table, CREATE finds all that it would set, and does what RESET does. -/
theorem exec_create_eq_exec_reset {s : State} (hc : s.cfgValid = true) (ht : s.tableValid = true)
    (hd : s.digestValid = true) : exec .create s = exec .reset s := by
  rw [exec_create hc, exec_reset hc hd, startDigest_of_valid s.init ht, ← hd]

/-- Settles O43: each count is a WRITE, whose data are its bytes. -/
theorem writeFoldsBytes : Obligations.WriteFoldsBytes := by
  intro s d0 d1 d2 d3 d4 d5 hc hd
  refine ⟨?_, ?_, ?_, ?_, ?_, ?_, ?_⟩ <;> exact exec_of_isWrite rfl hc hd

end Sys2Proof.Safety

/-! ## Properties of the Digest (R153, R158, R159) -/

namespace Sys2Proof.Safety

open Sys2Proof.Machine

/-! ### Splitting and resetting -/

/-- Settles O39: a run of WRITE commands leaves the fold of its data, whichever commands carry them. -/
theorem splitInvariance : Obligations.SplitInvariance := by
  refine ⟨fun t bitrev crc s1 s2 => (foldSeq_append t bitrev crc s1 s2).symm, ?_⟩
  intro s is js hs hc hd hw heq
  obtain ⟨hwi, hwj⟩ := List.forall_mem_append.mp hw
  refine ⟨_, _, runCommands_of_isWrite hwi hs hc hd, runCommands_of_isWrite hwj hs hc hd, ?_, rfl⟩
  exact congrArg (foldSeq s.table s.bitrev s.crc) heq

/-- Settles O46: RESET and CREATE leave the same state, so the WRITE commands after them run alike. -/
theorem resetEquivalence : Obligations.ResetEquivalence := by
  intro s is hs hc hd ht hw
  have hreset := exec_reset hc hd
  have hcreate := (exec_create_eq_exec_reset hc ht hd).trans hreset
  have hrun := runCommands_of_isWrite hw (s := respondOk 0x0000#16 { s with crc := s.init }) hs hc hd
  exact ⟨_, _, (runCommands_cons (decode_encode rfl) hs hreset).trans hrun,
    (runCommands_cons (decode_encode rfl) hs hcreate).trans hrun, rfl, rfl⟩

/-! ### Streaming: WRITE commands with other commands between them (R158) -/

/-- A command that may stand in a stream: WRITE, one that writes no state, or ENSURE. -/
abbrev StreamCommand (i : Instr) : Prop := isWrite i = true ∨ writeClass i = .nothing ∨ i = .ensure

theorem wf_of_streamCommand {i : Instr} (h : StreamCommand i) : i.wf = true := by
  cases i
  case cfgp => simp [StreamCommand, isWrite, writeClass] at h
  all_goals rfl

theorem dataBytes_of_nothing {i : Instr} (h : writeClass i = .nothing) : dataBytes i = [] := by
  cases i
  case write0 | write1 | write2 | write3 | write4 | write5 | write6 => cases h
  all_goals rfl

/-- With a Configuration, its table and a Digest, no check of any command fails. -/
theorem missing_eq_none_of_valid {s : State} (hc : s.cfgValid = true) (ht : s.tableValid = true)
    (hd : s.digestValid = true) (n : Need) : missing n s = none := by
  cases n
  case nothing => exact missing_nothing s
  case config => exact missing_config_eq_none.mpr hc
  case table => exact missing_table_eq_none.mpr ⟨hc, ht⟩
  case digest => exact missing_digest_eq_none.mpr ⟨hc, hd⟩

/-- A command that writes no state, its checks passed, only answers. -/
theorem exec_of_nothing {i : Instr} {s : State} (h : writeClass i = .nothing) (hm : missing (needOf i) s = none) :
    exec i s = .next (respondOk (dataOf i s) s) := by
  have hw : i.wf = true := wf_of_streamCommand (.inr (.inl h))
  have heffect := classEffect_effectOf hw hm
  rw [h] at heffect
  rw [exec_of_missing_eq_none hw hm, heffect.eq_of_nothing]

/-- The state a stream leaves: CRC has taken the fold of the bytes, and the answers are given. -/
def streamed (s : State) (bytes : List U8) (rs : List ResponseWord) : State :=
  { s with crc := foldSeq s.table s.bitrev s.crc bytes, responses := s.responses ++ rs }

theorem streamed_streamed (s : State) (bytes bytes' : List U8) (rs rs' : List ResponseWord) :
    streamed (streamed s bytes rs) bytes' rs' = streamed s (bytes ++ bytes') (rs ++ rs') := by
  simp [streamed, foldSeq_append]

/-- A command of a stream folds its data, if it has any, and gives one answer. -/
theorem exec_of_streamCommand {i : Instr} {s : State} (h : StreamCommand i) (hc : s.cfgValid = true)
    (ht : s.tableValid = true) (hd : s.digestValid = true) :
    ∃ r, exec i s = .next (streamed s (dataBytes i) [r]) := by
  obtain hw | hn | rfl := h
  · exact ⟨writeResponse i, exec_of_isWrite hw hc hd⟩
  · rw [exec_of_nothing hn (missing_eq_none_of_valid hc ht hd _), dataBytes_of_nothing hn]
    exact ⟨_, rfl⟩
  · rw [exec_ensure hc ht, ensureTable_of_valid ht]
    exact ⟨_, rfl⟩

/-- A stream before other commands: they run on the state that holds the fold of the stream's data. -/
theorem runCommands_append_of_streamCommand {is : List Instr} (his : ∀ i ∈ is, StreamCommand i) (js : List Instr) :
    ∀ {s : State}, s.inputs = [] → s.cfgValid = true → s.tableValid = true → s.digestValid = true →
      ∃ rs, runCommands (is ++ js) s = runCommands js (streamed s (is.flatMap dataBytes) rs) := by
  induction is with
  | nil =>
    intro s _ _ _ _
    exact ⟨[], by simp [streamed, foldSeq]⟩
  | cons i is ih =>
    intro s hs hc ht hd
    obtain ⟨hi, his⟩ := List.forall_mem_cons.mp his
    obtain ⟨r, hr⟩ := exec_of_streamCommand hi hc ht hd
    obtain ⟨rs, hrs⟩ := ih his (s := streamed s (dataBytes i) [r]) hs hc ht hd
    refine ⟨[r] ++ rs, ?_⟩
    rw [List.cons_append, runCommands_cons (decode_encode (wf_of_streamCommand hi)) hs hr, hrs, streamed_streamed,
      List.flatMap_cons]

/-- One legal command, run from the port, is the command. -/
theorem runCommands_singleton {i : Instr} {s t : State} (hw : i.wf = true) (hs : s.inputs = [])
    (h : exec i s = .next t) : runCommands [i] s = .next t := by
  rw [runCommands_cons (decode_encode hw) hs h]
  simp [runCommands]

/-- A table that is right if it is built is right once it is ensured. -/
theorem ensureTable_table_of_tableBuilt {s : State} (hb : TableBuilt s) :
    (ensureTable s).table = buildTable s.bitrev s.poly := by
  rw [ensureTable_table]
  split
  · next hv => exact hb hv
  · rfl

/-- The state CREATE leaves: a Digest at INIT over the built table of the loaded Configuration, and its answer. -/
def created (s : State) : State :=
  { s with
    table := buildTable s.bitrev s.poly, tableValid := true, crc := s.init, digestValid := true,
    responses := s.responses ++ [responseWord 0x00#8 0x0000#16] }

/-- CREATE leaves that state whether it has to build the table or finds it built. -/
theorem exec_create_of_tableBuilt {s : State} (hc : s.cfgValid = true) (hb : TableBuilt s) :
    exec .create s = .next (created s) := by
  rw [exec_create hc, startDigest_eq, ensureTable_table_of_tableBuilt hb]
  rfl

/-- Settles O45: CREATE leaves INIT over the built table, the mixture folds its data into it, and SUM16 answers what it
finds. -/
theorem streamingEquivalence : Obligations.StreamingEquivalence := by
  intro s is hs hc hb his
  obtain ⟨rs, hstream⟩ := runCommands_append_of_streamCommand his [.sum16] (s := created s) hs hc rfl rfl
  have hsum := exec_of_nothing (i := .sum16) (s := streamed (created s) (is.flatMap dataBytes) rs) rfl
    (missing_digest_eq_none.mpr ⟨hc, rfl⟩)
  have hrun :=
    calc runCommands ([.create] ++ is ++ [.sum16]) s
      _ = runCommands (is ++ [.sum16]) (created s) :=
        runCommands_cons (decode_encode rfl) hs (exec_create_of_tableBuilt hc hb)
      _ = runCommands [.sum16] (streamed (created s) (is.flatMap dataBytes) rs) := hstream
      _ = .next _ := runCommands_singleton rfl hs hsum
  refine ⟨_, [responseWord 0x00#8 0x0000#16] ++ rs, hrun, rfl, ?_⟩
  rw [respondOk_responses, ← List.append_assoc]
  rfl

end Sys2Proof.Safety

/-! # Finalization unit (43_finalization.md) -/

/-! ## The final value and the serialized bytes (R180) -/

namespace Sys2Proof.Machine

/-- The mux joins the two bytes in the order in which `Serialize` lists them. -/
theorem swapMux_eq_joinBytes {v : U16} {bigend : Bool} {first second : U8}
    (h : serialize v bigend = [first, second]) : swapMux v bigend = joinBytes first second := by
  cases bigend <;> cases h
  · rfl
  · exact (joinBytes_bytes v).symm

/-- Settles O47, by BIGEND: the bytes of a value are its quotient and its remainder by 2^8. -/
theorem finalizationFunctions : Obligations.FinalizationFunctions := by
  refine ⟨fun _ _ => rfl, fun v bigend => ?_⟩
  cases bigend
  case true =>
    refine ⟨highByte v, lowByte v, rfl, toNat_highByte v, toNat_lowByte v, ?_⟩
    rw [swapMux_eq_joinBytes rfl, toNat_joinBytes]
  case false =>
    refine ⟨lowByte v, highByte v, rfl, toNat_lowByte v, toNat_highByte v, ?_⟩
    rw [swapMux_eq_joinBytes rfl, toNat_joinBytes]

end Sys2Proof.Machine

/-! ## The commands SUM16 and BLKSZ (R181, R183) -/

namespace Sys2Proof.Safety

open Sys2Proof.Machine

theorem exec_sum16 {s : State} (hc : s.cfgValid = true) (hd : s.digestValid = true) :
    exec .sum16 s = .next (respondOk (finalValue s.crc s.finxor) s) :=
  exec_of_nothing rfl (missing_digest_eq_none.mpr ⟨hc, hd⟩)

/-- Settles O48: SUM16 needs the Digest and only answers. -/
theorem sum16ReturnsFinalValue : Obligations.Sum16ReturnsFinalValue :=
  fun _ hc hd => exec_sum16 hc hd

/-- Settles O50: BLKSZ needs nothing and only answers. -/
theorem blkszReturnsOne : Obligations.BlkszReturnsOne :=
  fun s => exec_of_nothing rfl (missing_nothing s)

/-! ## The one-shot checksum (R184, R185; 30_encoding.md R87) -/

/-- CHECKSUM is a stream of WRITE commands between CREATE and SUM16: it leaves a Digest that has folded the bytes from
INIT, and answers its final value last. -/
theorem runCommands_checksumCommands {s : State} (bytes : List U8) (hs : s.inputs = []) (hc : s.cfgValid = true)
    (hb : TableBuilt s) : ∃ rs, runCommands (checksumCommands bytes) s =
      .next (respondOk (checksum s bytes) (streamed (created s) bytes rs)) := by
  have hwrites : ∀ i ∈ writesCommands bytes, StreamCommand i := fun i hi => .inl (writesCommands_isWrite bytes i hi)
  obtain ⟨rs, hstream⟩ := runCommands_append_of_streamCommand hwrites [.sum16] (s := created s) hs hc rfl rfl
  rw [writesCommands_flatMap_dataBytes] at hstream
  refine ⟨rs, ?_⟩
  calc runCommands ([.create] ++ writesCommands bytes ++ [.sum16]) s
    _ = runCommands (writesCommands bytes ++ [.sum16]) (created s) :=
      runCommands_cons (decode_encode rfl) hs (exec_create_of_tableBuilt hc hb)
    _ = runCommands [.sum16] (streamed (created s) bytes rs) := hstream
    _ = .next (respondOk (checksum s bytes) (streamed (created s) bytes rs)) :=
      runCommands_singleton rfl hs (exec_sum16 hc rfl)

/-- Settles O51: the answers before the last are those of CREATE and of the WRITE commands. -/
theorem checksumReturnsOneShot : Obligations.ChecksumReturnsOneShot := by
  intro s bytes hs hc hb
  obtain ⟨rs, hrun⟩ := runCommands_checksumCommands bytes hs hc hb
  refine ⟨_, [responseWord 0x00#8 0x0000#16] ++ rs, hrun, ?_, rfl, rfl⟩
  rw [respondOk_responses, ← List.append_assoc]
  rfl

/-- Settles O52: a fold of no bytes is INIT, and CREATE leaves INIT in the register and FINXOR as it was. -/
theorem emptyInputChecksum : Obligations.EmptyInputChecksum := by
  refine ⟨fun _ => rfl, fun s t hc hcreate => ?_⟩
  rw [exec_create hc, startDigest_eq] at hcreate
  cases hcreate
  exact exec_sum16 hc rfl

end Sys2Proof.Safety

/-! # Register reads (44_status.md) -/

namespace Sys2Proof.Safety

open Sys2Proof.Machine

/-- Settles O54: every RDST only answers, once the check of its selector passes: none for STATUS, CFG_VALID for the
attributes and MODE, DIGEST_VALID too for CRC. -/
theorem rdstReadsRegisters : Obligations.RdstReadsRegisters := by
  refine ⟨fun s => exec_of_nothing rfl (missing_nothing s), fun s hc => ?_, fun s hc hd => ?_⟩
  · have hm : missing .config s = none := missing_config_eq_none.mpr hc
    exact ⟨exec_of_nothing rfl hm, exec_of_nothing rfl hm, exec_of_nothing rfl hm, exec_of_nothing rfl hm⟩
  · exact exec_of_nothing rfl (missing_digest_eq_none.mpr ⟨hc, hd⟩)

end Sys2Proof.Safety

/-! # Exceptions (60_exceptions.md) -/

/-! ## The checks of a command by the columns of R221, in the order of R223 -/

namespace Sys2Proof.Safety

open Sys2Proof.Machine

theorem needsConfiguration_eq (i : Instr) : needsConfiguration i = decide (needOf i ≠ .nothing) := by
  cases i <;> rfl

theorem needsTable_eq (i : Instr) : needsTable i = decide (needOf i = .table) := by
  cases i <;> rfl

theorem needsDigest_eq (i : Instr) : needsDigest i = decide (needOf i = .digest) := by
  cases i <;> rfl

/-- RDTAB needs no Digest (60_exceptions.md R221). -/
theorem needsTable_of_needsDigest {i : Instr} (h : needsDigest i = true) : needsTable i = false := by
  rw [needsDigest_eq, decide_eq_true_iff] at h
  rw [needsTable_eq, h]
  rfl

theorem missing_needOf (i : Instr) (s : State) :
    missing (needOf i) s =
      if needsConfiguration i && !s.cfgValid then some .noCfg
      else if needsTable i && !s.tableValid then some .noTab
      else if needsDigest i && !s.digestValid then some .noDig
      else none := by
  rw [needsConfiguration_eq, needsTable_eq, needsDigest_eq]
  cases needOf i with
  | nothing => rfl
  | config => cases hc : s.cfgValid <;> simp [missing_config, hc]
  | table => cases hc : s.cfgValid <;> cases ht : s.tableValid <;> simp [missing_table, hc, ht]
  | digest => cases hc : s.cfgValid <;> cases hd : s.digestValid <;> simp [missing_digest, hc, hd]

/-! ### Where the commands trap (R220 to R223) -/

theorem exec_of_missing_eq_some {i : Instr} {s : State} {e : ErrorCode} (hw : i.wf = true)
    (hm : missing (needOf i) s = some e) : exec i s = .next (fail e s) := by
  rw [exec_eq hw, perform_of_some hm]

/-- Settles O17: in each case the first check that fails is the one of the missing prerequisite. -/
theorem missingPrerequisitesTrap : Obligations.MissingPrerequisitesTrap := by
  refine fun i s hw => ⟨fun hn hc => ?_, fun hn hc ht => ?_, fun hn hc hd => ?_⟩
  · have hm : missing (needOf i) s = some .noCfg := by simp [missing_needOf, hn, hc]
    exact exec_of_missing_eq_some hw hm
  · have hm : missing (needOf i) s = some .noTab := by simp [missing_needOf, hn, hc, ht]
    exact exec_of_missing_eq_some hw hm
  · have hm : missing (needOf i) s = some .noDig := by
      simp [missing_needOf, hn, hc, hd, needsTable_of_needsDigest hn]
    exact exec_of_missing_eq_some hw hm

end Sys2Proof.Safety

/-! ## What a command word does: it fails with its first error, or it succeeds (R222, R223) -/

namespace Sys2Proof.Safety

open Sys2Proof.Machine

/-- The first check of a command word that fails, the decoder's before the command's own (60_exceptions.md R223). -/
def commandError (w : CommandWord) (s : State) : Option ErrorCode :=
  match decode w with
  | .error r => some (rejectError r)
  | .ok i => missing (needOf i) s

theorem commandError_of_error {w : CommandWord} {r : Reject} (hd : decode w = .error r) (s : State) :
    commandError w s = some (rejectError r) := by
  simp [commandError, hd]

theorem commandError_of_ok {w : CommandWord} {i : Instr} (hd : decode w = .ok i) (s : State) :
    commandError w s = missing (needOf i) s := by
  simp [commandError, hd]

section

variable {s : State} {w : CommandWord} {rest : List PortInput}

theorem step_of_commandError_some {e : ErrorCode} (hs : s.inputs = .command w :: rest)
    (h : commandError w s = some e) : step s = .next (fail e { s with inputs := rest }) := by
  cases hd : decode w with
  | error r =>
    obtain rfl : rejectError r = e := Option.some.inj ((commandError_of_error hd s).symm.trans h)
    exact step_rejected hs hd
  | ok i =>
    obtain ⟨hw, -⟩ := wf_and_encode_of_decode hd
    have hm : missing (needOf i) s = some e := (commandError_of_ok hd s).symm.trans h
    exact (step_decoded hs hd).trans (exec_of_missing_eq_some hw hm)

theorem step_of_commandError_none (hs : s.inputs = .command w :: rest) (h : commandError w s = none) :
    ∃ i, step s = .next (respondOk (dataOf i { s with inputs := rest }) (effectOf i { s with inputs := rest })) := by
  cases hd : decode w with
  | error r => exact nomatch (commandError_of_error hd s).symm.trans h
  | ok i =>
    obtain ⟨hw, -⟩ := wf_and_encode_of_decode hd
    have hm : missing (needOf i) s = none := (commandError_of_ok hd s).symm.trans h
    exact ⟨i, (step_decoded hs hd).trans (exec_of_missing_eq_none hw hm)⟩

/-- The status of the response is the code of the first check that fails, else 0. -/
theorem step_status (hs : s.inputs = .command w :: rest) :
    ∃ t data, step s = .next t ∧
      t.responses = s.responses ++ [responseWord ((commandError w s).elim 0x00#8 errorStatus) data] := by
  cases h : commandError w s with
  | some e => exact ⟨_, _, step_of_commandError_some hs h, rfl⟩
  | none =>
    obtain ⟨i, ht⟩ := step_of_commandError_none hs h
    exact ⟨_, _, ht, by rw [respondOk_responses, effectOf_responses]; rfl⟩

end

/-- Settles O15: a word with an error is `fail` on the state without the word, and the effect of any other does not touch
ERR and ERRCODE. -/
theorem failuresChangeOnlyErrorState : Obligations.FailuresChangeOnlyErrorState := by
  intro s w rest hs
  cases h : commandError w s with
  | some e =>
    exact ⟨_, errorStatus e, _, step_of_commandError_some hs h, rfl, fun _ => ⟨rfl, rfl⟩,
      fun h0 => absurd h0 (errorStatus_ne_zero e)⟩
  | none =>
    obtain ⟨i, ht⟩ := step_of_commandError_none hs h
    exact ⟨_, 0x00#8, _, ht, by rw [respondOk_responses, effectOf_responses], absurd rfl,
      fun _ => ⟨effectOf_err i _, effectOf_errcode i _⟩⟩

/-- Settles O16: the status is that of the word's first error, which for a command is read off the columns of R221. -/
theorem checksAreMadeInOrder : Obligations.ChecksAreMadeInOrder := by
  intro s w rest hs
  obtain ⟨t, data, ht, hr⟩ := step_status hs
  refine ⟨t, _, data, ht, hr, ?_⟩
  cases hd : decode w with
  | error r =>
    rw [commandError_of_error hd]
    cases r <;> rfl
  | ok i =>
    rw [commandError_of_ok hd, missing_needOf]
    dsimp only
    split_ifs <;> rfl

end Sys2Proof.Safety

/-! ## The error state is sticky (R226), and the block is idle without a command (R233) -/

namespace Sys2Proof.Safety

open Sys2Proof.Machine

/-- ERR is set, and ERRCODE holds this code. -/
def ErrorHeld (code : U8) (s : State) : Prop := s.err = true ∧ s.errcode = code

theorem errorHeld_fail {code : U8} (e : ErrorCode) {s : State} (h : ErrorHeld code s) : ErrorHeld code (fail e s) := by
  obtain ⟨herr, hcode⟩ := h
  exact ⟨rfl, by rw [fail_errcode, if_pos herr, hcode]⟩

theorem exec_keeps_errorHeld {code : U8} {i : Instr} {s t : State} (hs : ErrorHeld code s) (h : exec i s = .next t) :
    ErrorHeld code t :=
  exec_keeps (fun e _ => errorHeld_fail e) (fun i s _ _ hs => by simpa [ErrorHeld] using hs) hs h

/-- Settles O19: the first code is held by a block that is idle, by every command and by a word that is none. -/
theorem errorIsSticky : Obligations.ErrorIsSticky := by
  intro s t hreset hstep herr
  have hs : ErrorHeld s.errcode s := ⟨herr, rfl⟩
  obtain ⟨-, rfl⟩ | ⟨a, rest, hin, -⟩ | ⟨_, rest, i, -, -, he⟩ | ⟨_, rest, r, -, -, rfl⟩ := step_cases hstep
  · exact hs
  · exact absurd hin (hreset a rest)
  · exact exec_keeps_errorHeld (s := { s with inputs := rest }) hs he
  · exact errorHeld_fail (s := { s with inputs := rest }) (rejectError r) hs

/-- Settles O10: with no input a step answers the same state. -/
theorem idleBlockHoldsState : Obligations.IdleBlockHoldsState :=
  fun _ hs => step_idle hs

end Sys2Proof.Safety

/-! # Reset and hazards (70_reset_and_hazards.md) -/

/-! ## A sequence of command words runs to its end (R267; 20_memory.md R62) -/

namespace Sys2Proof.Safety

open Sys2Proof.Machine

/-- Command words at the head of the inputs run one a step, whatever stands behind them, and each is answered. -/
theorem run_commands_gives_responses (us : List CommandWord) {rest : List PortInput} :
    ∀ {s : State}, s.inputs = us.map PortInput.command ++ rest →
      ∃ t rs, run us.length s = .next t ∧ t.inputs = rest ∧ rs.length = us.length ∧
        t.responses = s.responses ++ rs ∧ ∀ r ∈ rs, ResponseSound r := by
  induction us with
  | nil =>
    intro s hs
    exact ⟨s, [], run_zero s, hs, rfl, (List.append_nil _).symm, List.forall_mem_nil _⟩
  | cons w us ih =>
    intro s hs
    obtain ⟨u, r, hstep, hin, hr, hsound⟩ := everyCommandGetsOneResponse s w _ hs
    obtain ⟨t, rs, hrun, ht, hlen, hrs, hsounds⟩ := ih hin
    refine ⟨t, r :: rs, (run_succ hstep).trans hrun, ht, congrArg Nat.succ hlen, ?_,
      List.forall_mem_cons.mpr ⟨hsound, hsounds⟩⟩
    rw [hrs, hr, List.append_assoc, List.singleton_append]

/-- Settles O14: with no input pending, the words delivered are all the inputs, those to run before the rest. -/
theorem commandSequencesGetAllResponses : Obligations.CommandSequencesGetAllResponses := by
  intro us vs s hs
  have hin : (deliver (us ++ vs) s).inputs = us.map PortInput.command ++ vs.map PortInput.command := by
    rw [deliver_inputs, hs, List.nil_append, List.map_append]
  exact run_commands_gives_responses us hin

end Sys2Proof.Safety

/-! ## A saved Digest resumes after a reconfiguration (R262; 42_update_engine.md R155) -/

namespace Sys2Proof.Safety

open Sys2Proof.Machine

/-- A new Digest directly after a new Configuration: nothing is left of the Configuration, the table and the Digest
before them, and the error state is not touched. -/
theorem startDigest_respondOk_newConfiguration (value data : U16) (a : Attributes) (s : State) :
    startDigest value (respondOk data (newConfiguration a s)) = { s with
      poly := a.poly, init := a.init, finxor := a.finxor, bitrev := a.bitrev, bigend := a.bigend, cfgValid := true,
      table := buildTable a.bitrev a.poly, tableValid := true, crc := value, digestValid := true,
      responses := s.responses ++ [responseWord 0x00#8 data] } := by
  rw [startDigest, ensureTable_of_not_valid rfl]
  rfl

/-- Settles O56: the five values and the saved register are all that the other Configuration has overwritten, and the
table built for them again is the one that was there. -/
theorem savedDigestResumes : Obligations.SavedDigestResumes := by
  intro s t u v hc ht hd hb poly init finxor bitrev bigend hfirst hsecond hload
  cases (exec_cfg ⟨poly, bitrev, init, finxor, bigend⟩ s).symm.trans hfirst
  cases (exec_cfg ⟨s.poly, s.bitrev, s.init, s.finxor, s.bigend⟩ _).symm.trans hsecond
  cases (exec_loadcrc s.crc rfl).symm.trans hload
  rw [startDigest_respondOk_newConfiguration, hc, ht, hd, hb ht]
  rfl

end Sys2Proof.Safety

/-! ## The two resets (R250 to R252) -/

namespace Sys2Proof.Safety

open Sys2Proof.Machine

/-- Settles O12: the step is the reset of the state behind the reset event, which carries the command it abandons. -/
theorem hardwareResetClears : Obligations.HardwareResetClears :=
  fun _ _ _ hs => ⟨_, step_hardwareReset hs, rfl, rfl, rfl, rfl, rfl, rfl, rfl⟩

/-- The commands that need no Configuration (60_exceptions.md R221). -/
theorem needsConfiguration_eq_false_iff (i : Instr) :
    needsConfiguration i = false ↔ (∃ p v f b e, i = .cfg p v f b e) ∨ (∃ n, i = .cfgp n) ∨ (∃ v, i = .rev16 v) ∨
      i = .blksz ∨ i = .rdstStatus := by
  cases i <;> simp [needsConfiguration]

/-- Directly after reset the one check that can fail is that of CFG_VALID. -/
theorem missing_needOf_reset (i : Instr) :
    missing (needOf i) State.reset = if needsConfiguration i then some .noCfg else none := by
  rw [needsConfiguration_eq]
  cases needOf i <;> rfl

/-- Settles O18: directly after reset a command succeeds exactly if it needs no Configuration. -/
theorem succeedDirectlyAfterReset : Obligations.SucceedDirectlyAfterReset := by
  intro i hw
  rw [← needsConfiguration_eq_false_iff]
  have hm := missing_needOf_reset i
  cases hn : needsConfiguration i <;> rw [hn] at hm
  · exact ⟨_, 0x00#8, _, exec_of_missing_eq_none hw hm, by rw [respondOk_responses, effectOf_responses]; rfl,
      iff_of_true rfl rfl⟩
  · exact ⟨_, errorStatus .noCfg, _, exec_of_missing_eq_some hw hm, rfl,
      iff_of_false (errorStatus_ne_zero _) Bool.noConfusion⟩

/-- Settles O42: RESET writes CRC only, and answers 0. -/
theorem resetRestoresInit : Obligations.ResetRestoresInit :=
  fun _ hc hd => exec_reset hc hd

end Sys2Proof.Safety

/-! ## The preset numbers of CFGP (40_configuration.md R101, R103) -/

namespace Sys2Proof.Safety

open Sys2Proof.Machine

/-- A preset number with a tuple is short for the CFG that carries the tuple. -/
theorem exec_cfgp_eq_exec_cfg {sel : U8} {a : Attributes} (h : preset sel = some a) (s : State) :
    exec (.cfgp sel) s = exec (.cfg a.poly a.init a.finxor a.bitrev a.bigend) s :=
  (exec_cfgp_of_preset h s).trans (exec_cfg a s).symm

/-- Settles O26: each of the four numbers has the tuple that stands in its CFG. -/
theorem cfgpLoadsPreset : Obligations.CfgpLoadsPreset := by
  intro s
  refine ⟨?x25, ?modbus, ?xmodem, ?kermit⟩
  case x25 => exact exec_cfgp_eq_exec_cfg (a := ⟨0x1021#16, true, 0xFFFF#16, 0xFFFF#16, false⟩) rfl s
  case modbus => exact exec_cfgp_eq_exec_cfg (a := ⟨0x8005#16, true, 0xFFFF#16, 0x0000#16, false⟩) rfl s
  case xmodem => exact exec_cfgp_eq_exec_cfg (a := ⟨0x1021#16, false, 0x0000#16, 0x0000#16, true⟩) rfl s
  case kermit => exact exec_cfgp_eq_exec_cfg (a := ⟨0x1021#16, true, 0x0000#16, 0x0000#16, false⟩) rfl s

/-- Settles O27: a number from 4 on makes the command ill-formed, and an ill-formed command fails E_RSVD, which is the
status 0x02. -/
theorem reservedPresetFails : Obligations.ReservedPresetFails := by
  intro s sel hsel
  have hwf : (Instr.cfgp sel).wf = false := decide_eq_false (Nat.not_lt.mpr hsel)
  rw [exec_reserved hwf]
  rfl

end Sys2Proof.Safety
